-- ==== Sys2Proof/Word.lean ====
section
/-! DEFINITION. The two word types of the hardware (00_scope.md, notation): `u8` and `u16`. Arithmetic on both is
unsigned and modular, which is what `BitVec` addition and subtraction are. -/

namespace Sys2Proof

/-- `u8`: a byte of memory, a general register, SP or P. -/
abbrev Byte := BitVec 8

/-- `u16`: an address of the flat 64 KiB space (R50), or PC. -/
abbrev Addr := BitVec 16

end Sys2Proof
end

