-- ==== Sys2Proof/Config.lean ====
section
/-! DEFINITION. What the host or the platform fixes (00_scope.md R5). The spec leaves no result value open
(93_implementation_defined.md: no instruction in scope produces an "any value" result), so there is no free value here.
The parameter `BaseCycles` is the `baseCycles` column of `opcodeRows` (Sys2Proof/Decode.lean), at the spec's default
(R5, R75; log entry 3). -/

namespace Sys2Proof

/-- The parameter `InitialPC` of R5, R24, R202, which the spec leaves OPEN (92_eei_decisions.md D5). DESIGN CHOICE,
unsafe (log entry 1): the source's own example, "`0x8000` for cartridge code". Reset with any other value is
`State.resetWith` and `State.applyReset`. -/
def Config.initialPC : Addr := 0x8000#16

/-- What an address reads as that nothing has written since initialization: 0x00 (R51, R203). -/
def Config.initialByte : Byte := 0x00#8

end Sys2Proof
end

