-- ==== Sys2Proof/Syntax.lean ====
section
/-! DEFINITION. The instruction set as syntax: the ten addressing modes, the four access kinds, the handlers a
descriptor names, the operand of each mode, and `Instr` with one constructor per row of spec/opcode_table.json
(30_encoding.md R75). Every operand value is legal (R83), so the operand fields are bytes and addresses outright. -/

namespace Sys2Proof

/-- The addressing modes of R74, R96-R105. There is no Accumulator, Relative or Indirect mode (R81). -/
inductive AddrMode where
  | implied
  | immediate
  | zeroPage
  | zeroPageX
  | zeroPageY
  | absolute
  | absoluteX
  | absoluteY
  | indirectX
  | indirectY
  deriving DecidableEq, Repr

/-- The access kinds of R74. The kind decides what the handler is given (R109). -/
inductive AccessKind where
  | read
  | write
  | readModifyWrite
  | implied
  deriving DecidableEq, Repr

/-- The `operate` field of a descriptor (R74): one of the 25 handlers of R120-R170, or `unimplemented`. -/
inductive Operate where
  | lda
  | ldx
  | ldy
  | sta
  | stx
  | sty
  | and
  | ora
  | inc
  | dec
  | inx
  | iny
  | dex
  | dey
  | tax
  | tay
  | txa
  | tya
  | tsx
  | txs
  | clc
  | cld
  | cli
  | clv
  | brk
  | unimplemented
  deriving DecidableEq, Repr

/-- An addressing mode with the operand bytes it consumes (R71, R72): `imm` is the operand itself, `zp` a zero-page
address or pointer, `abs` the 16-bit address already assembled from its two bytes. -/
inductive Operand where
  | implied
  | immediate (imm : Byte)
  | zeroPage (zp : Byte)
  | zeroPageX (zp : Byte)
  | zeroPageY (zp : Byte)
  | absolute (abs : Addr)
  | absoluteX (abs : Addr)
  | absoluteY (abs : Addr)
  | indirectX (zp : Byte)
  | indirectY (zp : Byte)
  deriving DecidableEq, Repr

/-- The descriptor of one opcode byte: the 6-tuple of R74. `name` is diagnostic (R79) and `length` informational
(R78). -/
structure Descriptor where
  name       : String
  operate    : Operate
  mode       : AddrMode
  accessKind : AccessKind
  length     : Nat
  baseCycles : Nat
  deriving DecidableEq, Repr

/-- The instructions: one constructor per implemented opcode byte (R75). BRK's padding byte is ignored (R71) and is
no operand. -/
inductive Instr where
  | ldaImmediate (imm : Byte)
  | ldaZeroPage (zp : Byte)
  | ldaZeroPageX (zp : Byte)
  | ldaAbsolute (abs : Addr)
  | ldaAbsoluteX (abs : Addr)
  | ldaAbsoluteY (abs : Addr)
  | ldaIndirectX (zp : Byte)
  | ldaIndirectY (zp : Byte)
  | ldxImmediate (imm : Byte)
  | ldxZeroPage (zp : Byte)
  | ldxZeroPageY (zp : Byte)
  | ldxAbsolute (abs : Addr)
  | ldxAbsoluteY (abs : Addr)
  | ldyImmediate (imm : Byte)
  | ldyZeroPage (zp : Byte)
  | ldyZeroPageX (zp : Byte)
  | ldyAbsolute (abs : Addr)
  | ldyAbsoluteX (abs : Addr)
  | staZeroPage (zp : Byte)
  | staZeroPageX (zp : Byte)
  | staAbsolute (abs : Addr)
  | staAbsoluteX (abs : Addr)
  | staAbsoluteY (abs : Addr)
  | staIndirectX (zp : Byte)
  | staIndirectY (zp : Byte)
  | stxZeroPage (zp : Byte)
  | stxZeroPageY (zp : Byte)
  | stxAbsolute (abs : Addr)
  | styZeroPage (zp : Byte)
  | styZeroPageX (zp : Byte)
  | styAbsolute (abs : Addr)
  | andImmediate (imm : Byte)
  | andZeroPage (zp : Byte)
  | andZeroPageX (zp : Byte)
  | andAbsolute (abs : Addr)
  | andAbsoluteX (abs : Addr)
  | andAbsoluteY (abs : Addr)
  | andIndirectX (zp : Byte)
  | andIndirectY (zp : Byte)
  | oraImmediate (imm : Byte)
  | oraZeroPage (zp : Byte)
  | oraZeroPageX (zp : Byte)
  | oraAbsolute (abs : Addr)
  | oraAbsoluteX (abs : Addr)
  | oraAbsoluteY (abs : Addr)
  | oraIndirectX (zp : Byte)
  | oraIndirectY (zp : Byte)
  | incZeroPage (zp : Byte)
  | incZeroPageX (zp : Byte)
  | incAbsolute (abs : Addr)
  | incAbsoluteX (abs : Addr)
  | decZeroPage (zp : Byte)
  | decZeroPageX (zp : Byte)
  | decAbsolute (abs : Addr)
  | decAbsoluteX (abs : Addr)
  | inx
  | iny
  | dex
  | dey
  | tax
  | tay
  | txa
  | tya
  | tsx
  | txs
  | clc
  | cld
  | cli
  | clv
  | brk
  deriving DecidableEq, Repr

/-- The mode of an operand. -/
def Operand.mode : Operand → AddrMode
  | .implied => .implied
  | .immediate _ => .immediate
  | .zeroPage _ => .zeroPage
  | .zeroPageX _ => .zeroPageX
  | .zeroPageY _ => .zeroPageY
  | .absolute _ => .absolute
  | .absoluteX _ => .absoluteX
  | .absoluteY _ => .absoluteY
  | .indirectX _ => .indirectX
  | .indirectY _ => .indirectY

/-- The handler an instruction runs (the mnemonic column of R75). -/
def Instr.operate : Instr → Operate
  | .ldaImmediate _ => .lda
  | .ldaZeroPage _ => .lda
  | .ldaZeroPageX _ => .lda
  | .ldaAbsolute _ => .lda
  | .ldaAbsoluteX _ => .lda
  | .ldaAbsoluteY _ => .lda
  | .ldaIndirectX _ => .lda
  | .ldaIndirectY _ => .lda
  | .ldxImmediate _ => .ldx
  | .ldxZeroPage _ => .ldx
  | .ldxZeroPageY _ => .ldx
  | .ldxAbsolute _ => .ldx
  | .ldxAbsoluteY _ => .ldx
  | .ldyImmediate _ => .ldy
  | .ldyZeroPage _ => .ldy
  | .ldyZeroPageX _ => .ldy
  | .ldyAbsolute _ => .ldy
  | .ldyAbsoluteX _ => .ldy
  | .staZeroPage _ => .sta
  | .staZeroPageX _ => .sta
  | .staAbsolute _ => .sta
  | .staAbsoluteX _ => .sta
  | .staAbsoluteY _ => .sta
  | .staIndirectX _ => .sta
  | .staIndirectY _ => .sta
  | .stxZeroPage _ => .stx
  | .stxZeroPageY _ => .stx
  | .stxAbsolute _ => .stx
  | .styZeroPage _ => .sty
  | .styZeroPageX _ => .sty
  | .styAbsolute _ => .sty
  | .andImmediate _ => .and
  | .andZeroPage _ => .and
  | .andZeroPageX _ => .and
  | .andAbsolute _ => .and
  | .andAbsoluteX _ => .and
  | .andAbsoluteY _ => .and
  | .andIndirectX _ => .and
  | .andIndirectY _ => .and
  | .oraImmediate _ => .ora
  | .oraZeroPage _ => .ora
  | .oraZeroPageX _ => .ora
  | .oraAbsolute _ => .ora
  | .oraAbsoluteX _ => .ora
  | .oraAbsoluteY _ => .ora
  | .oraIndirectX _ => .ora
  | .oraIndirectY _ => .ora
  | .incZeroPage _ => .inc
  | .incZeroPageX _ => .inc
  | .incAbsolute _ => .inc
  | .incAbsoluteX _ => .inc
  | .decZeroPage _ => .dec
  | .decZeroPageX _ => .dec
  | .decAbsolute _ => .dec
  | .decAbsoluteX _ => .dec
  | .inx => .inx
  | .iny => .iny
  | .dex => .dex
  | .dey => .dey
  | .tax => .tax
  | .tay => .tay
  | .txa => .txa
  | .tya => .tya
  | .tsx => .tsx
  | .txs => .txs
  | .clc => .clc
  | .cld => .cld
  | .cli => .cli
  | .clv => .clv
  | .brk => .brk

/-- The mode and operand bytes of an instruction (the mode column of R75). -/
def Instr.operand : Instr → Operand
  | .ldaImmediate imm => .immediate imm
  | .ldaZeroPage zp => .zeroPage zp
  | .ldaZeroPageX zp => .zeroPageX zp
  | .ldaAbsolute abs => .absolute abs
  | .ldaAbsoluteX abs => .absoluteX abs
  | .ldaAbsoluteY abs => .absoluteY abs
  | .ldaIndirectX zp => .indirectX zp
  | .ldaIndirectY zp => .indirectY zp
  | .ldxImmediate imm => .immediate imm
  | .ldxZeroPage zp => .zeroPage zp
  | .ldxZeroPageY zp => .zeroPageY zp
  | .ldxAbsolute abs => .absolute abs
  | .ldxAbsoluteY abs => .absoluteY abs
  | .ldyImmediate imm => .immediate imm
  | .ldyZeroPage zp => .zeroPage zp
  | .ldyZeroPageX zp => .zeroPageX zp
  | .ldyAbsolute abs => .absolute abs
  | .ldyAbsoluteX abs => .absoluteX abs
  | .staZeroPage zp => .zeroPage zp
  | .staZeroPageX zp => .zeroPageX zp
  | .staAbsolute abs => .absolute abs
  | .staAbsoluteX abs => .absoluteX abs
  | .staAbsoluteY abs => .absoluteY abs
  | .staIndirectX zp => .indirectX zp
  | .staIndirectY zp => .indirectY zp
  | .stxZeroPage zp => .zeroPage zp
  | .stxZeroPageY zp => .zeroPageY zp
  | .stxAbsolute abs => .absolute abs
  | .styZeroPage zp => .zeroPage zp
  | .styZeroPageX zp => .zeroPageX zp
  | .styAbsolute abs => .absolute abs
  | .andImmediate imm => .immediate imm
  | .andZeroPage zp => .zeroPage zp
  | .andZeroPageX zp => .zeroPageX zp
  | .andAbsolute abs => .absolute abs
  | .andAbsoluteX abs => .absoluteX abs
  | .andAbsoluteY abs => .absoluteY abs
  | .andIndirectX zp => .indirectX zp
  | .andIndirectY zp => .indirectY zp
  | .oraImmediate imm => .immediate imm
  | .oraZeroPage zp => .zeroPage zp
  | .oraZeroPageX zp => .zeroPageX zp
  | .oraAbsolute abs => .absolute abs
  | .oraAbsoluteX abs => .absoluteX abs
  | .oraAbsoluteY abs => .absoluteY abs
  | .oraIndirectX zp => .indirectX zp
  | .oraIndirectY zp => .indirectY zp
  | .incZeroPage zp => .zeroPage zp
  | .incZeroPageX zp => .zeroPageX zp
  | .incAbsolute abs => .absolute abs
  | .incAbsoluteX abs => .absoluteX abs
  | .decZeroPage zp => .zeroPage zp
  | .decZeroPageX zp => .zeroPageX zp
  | .decAbsolute abs => .absolute abs
  | .decAbsoluteX abs => .absoluteX abs
  | .inx => .implied
  | .iny => .implied
  | .dex => .implied
  | .dey => .implied
  | .tax => .implied
  | .tay => .implied
  | .txa => .implied
  | .tya => .implied
  | .tsx => .implied
  | .txs => .implied
  | .clc => .implied
  | .cld => .implied
  | .cli => .implied
  | .clv => .implied
  | .brk => .implied

end Sys2Proof
end

