-- ==== Sys2Proof/WellFormed.lean ====
section
/-! DEFINITION. What makes a descriptor, a pairing of mnemonic and mode, and an instruction well formed
(30_encoding.md R75, R77). Every operand value is legal (R83), so an instruction's check is the pairing alone. -/

namespace Sys2Proof

/-- The modes R75 gives each handler. A pairing that is not here, such as STA Immediate or LDX AbsoluteX, has no
opcode. -/
def Operate.modes : Operate → List AddrMode
  | .lda | .and | .ora => [.immediate, .zeroPage, .zeroPageX, .absolute, .absoluteX, .absoluteY, .indirectX, .indirectY]
  | .ldx => [.immediate, .zeroPage, .zeroPageY, .absolute, .absoluteY]
  | .ldy => [.immediate, .zeroPage, .zeroPageX, .absolute, .absoluteX]
  | .sta => [.zeroPage, .zeroPageX, .absolute, .absoluteX, .absoluteY, .indirectX, .indirectY]
  | .stx => [.zeroPage, .zeroPageY, .absolute]
  | .sty => [.zeroPage, .zeroPageX, .absolute]
  | .inc | .dec => [.zeroPage, .zeroPageX, .absolute, .absoluteX]
  | .inx | .iny | .dex | .dey | .tax | .tay | .txa | .tya | .tsx | .txs | .clc | .cld | .cli | .clv | .brk => [.implied]
  | .unimplemented => [.implied]

/-- The access kind of a handler's contract (R75): loads, AND and ORA read; stores write; INC and DEC on memory read,
modify and write; the rest are Implied. -/
def Operate.accessKind : Operate → AccessKind
  | .lda | .ldx | .ldy | .and | .ora => .read
  | .sta | .stx | .sty => .write
  | .inc | .dec => .readModifyWrite
  | .inx | .iny | .dex | .dey => .implied
  | .tax | .tay | .txa | .tya | .tsx | .txs => .implied
  | .clc | .cld | .cli | .clv => .implied
  | .brk | .unimplemented => .implied

/-- How many operand bytes the resolver consumes in each mode (R71, R96-R105). -/
def AddrMode.operandBytes : AddrMode → Nat
  | .implied => 0
  | .immediate | .zeroPage | .zeroPageX | .zeroPageY | .indirectX | .indirectY => 1
  | .absolute | .absoluteX | .absoluteY => 2

/-- A mode that yields an effective address (R77(c)). -/
def AddrMode.hasAddress : AddrMode → Bool
  | .implied | .immediate => false
  | .zeroPage | .zeroPageX | .zeroPageY | .absolute | .absoluteX | .absoluteY | .indirectX | .indirectY => true

/-- R77(a): the mode is Implied if and only if the access kind is. -/
def Descriptor.impliedTogether (d : Descriptor) : Bool :=
  (d.mode == .implied) == (d.accessKind == .implied)

/-- R77(b): the Immediate mode is read only. -/
def Descriptor.immediateReads (d : Descriptor) : Bool :=
  d.mode != .immediate || d.accessKind == .read

/-- R77(c): what writes memory has an effective address. -/
def Descriptor.writesHaveAddress (d : Descriptor) : Bool :=
  !(d.accessKind == .write || d.accessKind == .readModifyWrite) || d.mode.hasAddress

/-- R77(d): the length of an implemented row is 1 and the bytes its mode consumes, but for BRK, whose length is 2. -/
def Descriptor.lengthAgrees (d : Descriptor) : Bool :=
  d.length == if d.operate == .brk then 2 else 1 + d.mode.operandBytes

/-- R75: the mode is one the handler has. -/
def Descriptor.modeAllowed (d : Descriptor) : Bool :=
  d.operate.modes.contains d.mode

/-- R75: the access kind is that of the handler's contract. -/
def Descriptor.kindAgrees (d : Descriptor) : Bool :=
  d.accessKind == d.operate.accessKind

/-- All the checks of one descriptor. -/
def Descriptor.wellFormed (d : Descriptor) : Bool :=
  d.impliedTogether && d.immediateReads && d.writesHaveAddress && d.lengthAgrees && d.modeAllowed && d.kindAgrees

/-- A pairing of a handler and an operand that R75 gives an opcode. -/
def pairingWellFormed (f : Operate) (o : Operand) : Bool :=
  f != .unimplemented && f.modes.contains o.mode

/-- An instruction is well formed when its pairing is (every operand value is legal, R83). -/
def Instr.wellFormed (i : Instr) : Bool :=
  pairingWellFormed i.operate i.operand

end Sys2Proof
end

