-- ==== Sys2Proof/Decode.lean ====
section
/-! DEFINITION. The instruction decoder (30_encoding.md): the table of R75 with the sentinel of R76, the decoder over
bytes, and the encoder. The opcode bytes, the pairing of mnemonics with modes and the base cycles are the spec's
decision (92_eei_decisions.md D6, D7; log entries 2 and 3). -/

namespace Sys2Proof

/-- `zext_16(b)` (00_scope.md, notation). -/
def zext16 (b : Byte) : Addr := b.setWidth 16

/-- `(hi << 8) | lo`: two bytes as a little-endian 16-bit quantity (R54, R72). -/
def leWord (lo hi : Byte) : Addr := hi ++ lo

/-- `v[7:0]`. -/
def lowByte (v : Addr) : Byte := v.setWidth 8

/-- `v[15:8]`. -/
def highByte (v : Addr) : Byte := (v >>> 8).setWidth 8

/-! ## The table (R73-R76) -/

/-- R75, opcodes 0x00 to 0x0F. -/
def rows0 : List (Byte × Descriptor) := [
  (0x00#8, ⟨"BRK", .brk, .implied, .implied, 2, 7⟩),
  (0x01#8, ⟨"ORA", .ora, .indirectX, .read, 2, 6⟩),
  (0x05#8, ⟨"ORA", .ora, .zeroPage, .read, 2, 3⟩),
  (0x09#8, ⟨"ORA", .ora, .immediate, .read, 2, 2⟩),
  (0x0D#8, ⟨"ORA", .ora, .absolute, .read, 3, 4⟩)]

/-- R75, opcodes 0x10 to 0x1F. -/
def rows1 : List (Byte × Descriptor) := [
  (0x11#8, ⟨"ORA", .ora, .indirectY, .read, 2, 5⟩),
  (0x15#8, ⟨"ORA", .ora, .zeroPageX, .read, 2, 4⟩),
  (0x18#8, ⟨"CLC", .clc, .implied, .implied, 1, 2⟩),
  (0x19#8, ⟨"ORA", .ora, .absoluteY, .read, 3, 4⟩),
  (0x1D#8, ⟨"ORA", .ora, .absoluteX, .read, 3, 4⟩)]

/-- R75, opcodes 0x20 to 0x2F. -/
def rows2 : List (Byte × Descriptor) := [
  (0x21#8, ⟨"AND", .and, .indirectX, .read, 2, 6⟩),
  (0x25#8, ⟨"AND", .and, .zeroPage, .read, 2, 3⟩),
  (0x29#8, ⟨"AND", .and, .immediate, .read, 2, 2⟩),
  (0x2D#8, ⟨"AND", .and, .absolute, .read, 3, 4⟩)]

/-- R75, opcodes 0x30 to 0x3F. -/
def rows3 : List (Byte × Descriptor) := [
  (0x31#8, ⟨"AND", .and, .indirectY, .read, 2, 5⟩),
  (0x35#8, ⟨"AND", .and, .zeroPageX, .read, 2, 4⟩),
  (0x39#8, ⟨"AND", .and, .absoluteY, .read, 3, 4⟩),
  (0x3D#8, ⟨"AND", .and, .absoluteX, .read, 3, 4⟩)]

/-- R75, opcodes 0x50 to 0x5F. -/
def rows5 : List (Byte × Descriptor) := [
  (0x58#8, ⟨"CLI", .cli, .implied, .implied, 1, 2⟩)]

/-- R75, opcodes 0x80 to 0x8F. -/
def rows8 : List (Byte × Descriptor) := [
  (0x81#8, ⟨"STA", .sta, .indirectX, .write, 2, 6⟩),
  (0x84#8, ⟨"STY", .sty, .zeroPage, .write, 2, 3⟩),
  (0x85#8, ⟨"STA", .sta, .zeroPage, .write, 2, 3⟩),
  (0x86#8, ⟨"STX", .stx, .zeroPage, .write, 2, 3⟩),
  (0x88#8, ⟨"DEY", .dey, .implied, .implied, 1, 2⟩),
  (0x8A#8, ⟨"TXA", .txa, .implied, .implied, 1, 2⟩),
  (0x8C#8, ⟨"STY", .sty, .absolute, .write, 3, 4⟩),
  (0x8D#8, ⟨"STA", .sta, .absolute, .write, 3, 4⟩),
  (0x8E#8, ⟨"STX", .stx, .absolute, .write, 3, 4⟩)]

/-- R75, opcodes 0x90 to 0x9F. -/
def rows9 : List (Byte × Descriptor) := [
  (0x91#8, ⟨"STA", .sta, .indirectY, .write, 2, 6⟩),
  (0x94#8, ⟨"STY", .sty, .zeroPageX, .write, 2, 4⟩),
  (0x95#8, ⟨"STA", .sta, .zeroPageX, .write, 2, 4⟩),
  (0x96#8, ⟨"STX", .stx, .zeroPageY, .write, 2, 4⟩),
  (0x98#8, ⟨"TYA", .tya, .implied, .implied, 1, 2⟩),
  (0x99#8, ⟨"STA", .sta, .absoluteY, .write, 3, 5⟩),
  (0x9A#8, ⟨"TXS", .txs, .implied, .implied, 1, 2⟩),
  (0x9D#8, ⟨"STA", .sta, .absoluteX, .write, 3, 5⟩)]

/-- R75, opcodes 0xA0 to 0xAF. -/
def rowsA : List (Byte × Descriptor) := [
  (0xA0#8, ⟨"LDY", .ldy, .immediate, .read, 2, 2⟩),
  (0xA1#8, ⟨"LDA", .lda, .indirectX, .read, 2, 6⟩),
  (0xA2#8, ⟨"LDX", .ldx, .immediate, .read, 2, 2⟩),
  (0xA4#8, ⟨"LDY", .ldy, .zeroPage, .read, 2, 3⟩),
  (0xA5#8, ⟨"LDA", .lda, .zeroPage, .read, 2, 3⟩),
  (0xA6#8, ⟨"LDX", .ldx, .zeroPage, .read, 2, 3⟩),
  (0xA8#8, ⟨"TAY", .tay, .implied, .implied, 1, 2⟩),
  (0xA9#8, ⟨"LDA", .lda, .immediate, .read, 2, 2⟩),
  (0xAA#8, ⟨"TAX", .tax, .implied, .implied, 1, 2⟩),
  (0xAC#8, ⟨"LDY", .ldy, .absolute, .read, 3, 4⟩),
  (0xAD#8, ⟨"LDA", .lda, .absolute, .read, 3, 4⟩),
  (0xAE#8, ⟨"LDX", .ldx, .absolute, .read, 3, 4⟩)]

/-- R75, opcodes 0xB0 to 0xBF. -/
def rowsB : List (Byte × Descriptor) := [
  (0xB1#8, ⟨"LDA", .lda, .indirectY, .read, 2, 5⟩),
  (0xB4#8, ⟨"LDY", .ldy, .zeroPageX, .read, 2, 4⟩),
  (0xB5#8, ⟨"LDA", .lda, .zeroPageX, .read, 2, 4⟩),
  (0xB6#8, ⟨"LDX", .ldx, .zeroPageY, .read, 2, 4⟩),
  (0xB8#8, ⟨"CLV", .clv, .implied, .implied, 1, 2⟩),
  (0xB9#8, ⟨"LDA", .lda, .absoluteY, .read, 3, 4⟩),
  (0xBA#8, ⟨"TSX", .tsx, .implied, .implied, 1, 2⟩),
  (0xBC#8, ⟨"LDY", .ldy, .absoluteX, .read, 3, 4⟩),
  (0xBD#8, ⟨"LDA", .lda, .absoluteX, .read, 3, 4⟩),
  (0xBE#8, ⟨"LDX", .ldx, .absoluteY, .read, 3, 4⟩)]

/-- R75, opcodes 0xC0 to 0xCF. -/
def rowsC : List (Byte × Descriptor) := [
  (0xC6#8, ⟨"DEC", .dec, .zeroPage, .readModifyWrite, 2, 5⟩),
  (0xC8#8, ⟨"INY", .iny, .implied, .implied, 1, 2⟩),
  (0xCA#8, ⟨"DEX", .dex, .implied, .implied, 1, 2⟩),
  (0xCE#8, ⟨"DEC", .dec, .absolute, .readModifyWrite, 3, 6⟩)]

/-- R75, opcodes 0xD0 to 0xDF. -/
def rowsD : List (Byte × Descriptor) := [
  (0xD6#8, ⟨"DEC", .dec, .zeroPageX, .readModifyWrite, 2, 6⟩),
  (0xD8#8, ⟨"CLD", .cld, .implied, .implied, 1, 2⟩),
  (0xDE#8, ⟨"DEC", .dec, .absoluteX, .readModifyWrite, 3, 7⟩)]

/-- R75, opcodes 0xE0 to 0xEF. -/
def rowsE : List (Byte × Descriptor) := [
  (0xE6#8, ⟨"INC", .inc, .zeroPage, .readModifyWrite, 2, 5⟩),
  (0xE8#8, ⟨"INX", .inx, .implied, .implied, 1, 2⟩),
  (0xEE#8, ⟨"INC", .inc, .absolute, .readModifyWrite, 3, 6⟩)]

/-- R75, opcodes 0xF0 to 0xFF. -/
def rowsF : List (Byte × Descriptor) := [
  (0xF6#8, ⟨"INC", .inc, .zeroPageX, .readModifyWrite, 2, 6⟩),
  (0xFE#8, ⟨"INC", .inc, .absoluteX, .readModifyWrite, 3, 7⟩)]

/-- The 70 implemented rows (R75), in opcode order. The last column is `BaseCycles` at its default (R5, R210). -/
def opcodeRows : List (Byte × Descriptor) :=
  rows0 ++ rows1 ++ rows2 ++ rows3 ++ rows5 ++ rows8 ++ rows9 ++ rowsA ++ rowsB ++ rowsC ++ rowsD ++ rowsE ++ rowsF

/-- The sentinel descriptor of every byte that is not in R75 (R76). -/
def sentinel : Descriptor := ⟨"???", .unimplemented, .implied, .implied, 1, 0⟩

/-- `Table[op]`: total over all 256 bytes (R73), the sentinel where R75 has no row (R76). -/
def table (op : Byte) : Descriptor :=
  match opcodeRows.find? (fun r => r.1 == op) with
  | some r => r.2
  | none => sentinel

/-! ## The decoder -/

/-- The operand a mode makes of the two bytes after the opcode (R71, R72); a byte the mode does not consume is not
looked at. -/
def Operand.ofBytes : AddrMode → Byte → Byte → Operand
  | .implied, _, _ => .implied
  | .immediate, b1, _ => .immediate b1
  | .zeroPage, b1, _ => .zeroPage b1
  | .zeroPageX, b1, _ => .zeroPageX b1
  | .zeroPageY, b1, _ => .zeroPageY b1
  | .absolute, b1, b2 => .absolute (leWord b1 b2)
  | .absoluteX, b1, b2 => .absoluteX (leWord b1 b2)
  | .absoluteY, b1, b2 => .absoluteY (leWord b1 b2)
  | .indirectX, b1, _ => .indirectX b1
  | .indirectY, b1, _ => .indirectY b1

/-- The instruction of a handler and an operand; none for a pairing R75 has no row for, and none for the sentinel. -/
def Instr.ofPairing? : Operate → Operand → Option Instr
  | .lda, .immediate imm => some (.ldaImmediate imm)
  | .lda, .zeroPage zp => some (.ldaZeroPage zp)
  | .lda, .zeroPageX zp => some (.ldaZeroPageX zp)
  | .lda, .absolute abs => some (.ldaAbsolute abs)
  | .lda, .absoluteX abs => some (.ldaAbsoluteX abs)
  | .lda, .absoluteY abs => some (.ldaAbsoluteY abs)
  | .lda, .indirectX zp => some (.ldaIndirectX zp)
  | .lda, .indirectY zp => some (.ldaIndirectY zp)
  | .ldx, .immediate imm => some (.ldxImmediate imm)
  | .ldx, .zeroPage zp => some (.ldxZeroPage zp)
  | .ldx, .zeroPageY zp => some (.ldxZeroPageY zp)
  | .ldx, .absolute abs => some (.ldxAbsolute abs)
  | .ldx, .absoluteY abs => some (.ldxAbsoluteY abs)
  | .ldy, .immediate imm => some (.ldyImmediate imm)
  | .ldy, .zeroPage zp => some (.ldyZeroPage zp)
  | .ldy, .zeroPageX zp => some (.ldyZeroPageX zp)
  | .ldy, .absolute abs => some (.ldyAbsolute abs)
  | .ldy, .absoluteX abs => some (.ldyAbsoluteX abs)
  | .sta, .zeroPage zp => some (.staZeroPage zp)
  | .sta, .zeroPageX zp => some (.staZeroPageX zp)
  | .sta, .absolute abs => some (.staAbsolute abs)
  | .sta, .absoluteX abs => some (.staAbsoluteX abs)
  | .sta, .absoluteY abs => some (.staAbsoluteY abs)
  | .sta, .indirectX zp => some (.staIndirectX zp)
  | .sta, .indirectY zp => some (.staIndirectY zp)
  | .stx, .zeroPage zp => some (.stxZeroPage zp)
  | .stx, .zeroPageY zp => some (.stxZeroPageY zp)
  | .stx, .absolute abs => some (.stxAbsolute abs)
  | .sty, .zeroPage zp => some (.styZeroPage zp)
  | .sty, .zeroPageX zp => some (.styZeroPageX zp)
  | .sty, .absolute abs => some (.styAbsolute abs)
  | .and, .immediate imm => some (.andImmediate imm)
  | .and, .zeroPage zp => some (.andZeroPage zp)
  | .and, .zeroPageX zp => some (.andZeroPageX zp)
  | .and, .absolute abs => some (.andAbsolute abs)
  | .and, .absoluteX abs => some (.andAbsoluteX abs)
  | .and, .absoluteY abs => some (.andAbsoluteY abs)
  | .and, .indirectX zp => some (.andIndirectX zp)
  | .and, .indirectY zp => some (.andIndirectY zp)
  | .ora, .immediate imm => some (.oraImmediate imm)
  | .ora, .zeroPage zp => some (.oraZeroPage zp)
  | .ora, .zeroPageX zp => some (.oraZeroPageX zp)
  | .ora, .absolute abs => some (.oraAbsolute abs)
  | .ora, .absoluteX abs => some (.oraAbsoluteX abs)
  | .ora, .absoluteY abs => some (.oraAbsoluteY abs)
  | .ora, .indirectX zp => some (.oraIndirectX zp)
  | .ora, .indirectY zp => some (.oraIndirectY zp)
  | .inc, .zeroPage zp => some (.incZeroPage zp)
  | .inc, .zeroPageX zp => some (.incZeroPageX zp)
  | .inc, .absolute abs => some (.incAbsolute abs)
  | .inc, .absoluteX abs => some (.incAbsoluteX abs)
  | .dec, .zeroPage zp => some (.decZeroPage zp)
  | .dec, .zeroPageX zp => some (.decZeroPageX zp)
  | .dec, .absolute abs => some (.decAbsolute abs)
  | .dec, .absoluteX abs => some (.decAbsoluteX abs)
  | .inx, .implied => some .inx
  | .iny, .implied => some .iny
  | .dex, .implied => some .dex
  | .dey, .implied => some .dey
  | .tax, .implied => some .tax
  | .tay, .implied => some .tay
  | .txa, .implied => some .txa
  | .tya, .implied => some .tya
  | .tsx, .implied => some .tsx
  | .txs, .implied => some .txs
  | .clc, .implied => some .clc
  | .cld, .implied => some .cld
  | .cli, .implied => some .cli
  | .clv, .implied => some .clv
  | .brk, .implied => some .brk
  | _, _ => none

/-- The instruction whose opcode byte is `op` and whose next two bytes are `b1` and `b2`; none exactly for the 186
sentinel bytes (R76). The opcode alone fixes the mode and the length (R70, R80), so a byte that is no part of the
instruction does not matter. -/
def instrAt? (op b1 b2 : Byte) : Option Instr :=
  Instr.ofPairing? (table op).operate (Operand.ofBytes (table op).mode b1 b2)

/-- What decoding a list of bytes gives. -/
inductive DecodeResult where
  /-- An instruction, and the bytes after it. -/
  | instr (i : Instr) (rest : List Byte)
  /-- The sentinel (R76): raises UNKNOWN_OPCODE when the core fetches it (R180). -/
  | unknownOpcode (op : Byte)
  /-- The list ends inside the instruction (the core itself never meets this: every address holds a byte). -/
  | truncated
  deriving DecidableEq, Repr

/-- The total decoder over bytes at increasing addresses (R70, R71). An instruction takes the bytes its descriptor's
length says: for BRK these are the opcode and its padding byte, whatever it is (R71, R80). -/
def decode : List Byte → DecodeResult
  | [] => .truncated
  | op :: rest =>
    match instrAt? op (rest.headD 0) (rest.tail.headD 0) with
    | none => .unknownOpcode op
    | some i =>
      if (table op).length ≤ rest.length + 1 then .instr i (rest.drop ((table op).length - 1))
      else .truncated

/-! ## The encoder -/

/-- The opcode byte of an instruction (R75, family files' Encoding lines). -/
def Instr.opcode : Instr → Byte
  | .ldaImmediate _ => 0xA9#8
  | .ldaZeroPage _ => 0xA5#8
  | .ldaZeroPageX _ => 0xB5#8
  | .ldaAbsolute _ => 0xAD#8
  | .ldaAbsoluteX _ => 0xBD#8
  | .ldaAbsoluteY _ => 0xB9#8
  | .ldaIndirectX _ => 0xA1#8
  | .ldaIndirectY _ => 0xB1#8
  | .ldxImmediate _ => 0xA2#8
  | .ldxZeroPage _ => 0xA6#8
  | .ldxZeroPageY _ => 0xB6#8
  | .ldxAbsolute _ => 0xAE#8
  | .ldxAbsoluteY _ => 0xBE#8
  | .ldyImmediate _ => 0xA0#8
  | .ldyZeroPage _ => 0xA4#8
  | .ldyZeroPageX _ => 0xB4#8
  | .ldyAbsolute _ => 0xAC#8
  | .ldyAbsoluteX _ => 0xBC#8
  | .staZeroPage _ => 0x85#8
  | .staZeroPageX _ => 0x95#8
  | .staAbsolute _ => 0x8D#8
  | .staAbsoluteX _ => 0x9D#8
  | .staAbsoluteY _ => 0x99#8
  | .staIndirectX _ => 0x81#8
  | .staIndirectY _ => 0x91#8
  | .stxZeroPage _ => 0x86#8
  | .stxZeroPageY _ => 0x96#8
  | .stxAbsolute _ => 0x8E#8
  | .styZeroPage _ => 0x84#8
  | .styZeroPageX _ => 0x94#8
  | .styAbsolute _ => 0x8C#8
  | .andImmediate _ => 0x29#8
  | .andZeroPage _ => 0x25#8
  | .andZeroPageX _ => 0x35#8
  | .andAbsolute _ => 0x2D#8
  | .andAbsoluteX _ => 0x3D#8
  | .andAbsoluteY _ => 0x39#8
  | .andIndirectX _ => 0x21#8
  | .andIndirectY _ => 0x31#8
  | .oraImmediate _ => 0x09#8
  | .oraZeroPage _ => 0x05#8
  | .oraZeroPageX _ => 0x15#8
  | .oraAbsolute _ => 0x0D#8
  | .oraAbsoluteX _ => 0x1D#8
  | .oraAbsoluteY _ => 0x19#8
  | .oraIndirectX _ => 0x01#8
  | .oraIndirectY _ => 0x11#8
  | .incZeroPage _ => 0xE6#8
  | .incZeroPageX _ => 0xF6#8
  | .incAbsolute _ => 0xEE#8
  | .incAbsoluteX _ => 0xFE#8
  | .decZeroPage _ => 0xC6#8
  | .decZeroPageX _ => 0xD6#8
  | .decAbsolute _ => 0xCE#8
  | .decAbsoluteX _ => 0xDE#8
  | .inx => 0xE8#8
  | .iny => 0xC8#8
  | .dex => 0xCA#8
  | .dey => 0x88#8
  | .tax => 0xAA#8
  | .tay => 0xA8#8
  | .txa => 0x8A#8
  | .tya => 0x98#8
  | .tsx => 0xBA#8
  | .txs => 0x9A#8
  | .clc => 0x18#8
  | .cld => 0xD8#8
  | .cli => 0x58#8
  | .clv => 0xB8#8
  | .brk => 0x00#8

/-- The operand bytes of R71: an address is laid down low byte first (R54). -/
def Operand.bytes : Operand → List Byte
  | .implied => []
  | .immediate b | .zeroPage b | .zeroPageX b | .zeroPageY b | .indirectX b | .indirectY b => [b]
  | .absolute w | .absoluteX w | .absoluteY w => [lowByte w, highByte w]

/-- The padding byte of BRK (format F1b): its value is ignored (R71); the encoder writes 0x00 (DESIGN CHOICE, log
entry 8). -/
def paddingBytes : Instr → List Byte
  | .brk => [0x00#8]
  | _ => []

/-- The bytes of an instruction at increasing addresses (R71). -/
def encode (i : Instr) : List Byte :=
  i.opcode :: (i.operand.bytes ++ paddingBytes i)

/-! ## The table's words -/

/-- The bytes of the number `w`, the first at the lowest address. -/
def bytesOfWord : Nat → Nat → List Byte
  | 0, _ => []
  | n + 1, w => BitVec.ofNat 8 (w % 256) :: bytesOfWord n (w / 256)

/-- The longest instruction, in bytes (R74: length 1 to 3). -/
def maxInstrBytes : Nat := 3

/-- The bytes of an instruction given as a number of `nbits` bits whose bits 7:0 are the first byte; every bit above
is 0. -/
def tableBytes (nbits w : Nat) : List Byte := bytesOfWord maxInstrBytes (w % 2 ^ nbits)

/-- The instruction the decoder reads from `tableBytes`; none where it refuses. -/
def decodeTableWord (nbits w : Nat) : Option Instr :=
  match decode (tableBytes nbits w) with
  | .instr i _ => some i
  | .unknownOpcode _ => none
  | .truncated => none

end Sys2Proof
end

