-- ==== Sys2Proof/Machine/State.lean ====
section
/-! DEFINITION. The state of one core and its memory (10_state.md, 20_memory.md), as plain data, with the state after
reset and the reasons a step could stop. -/

namespace Sys2Proof.Machine

/-- Memory as (address, byte) pairs in one canonical form (`Memory.wf`, Machine/Ops.lean): addresses strictly rising,
all below 65536, and no byte equal to what an unlisted address reads as (`Config.initialByte`, 0x00, R51). -/
abbrev Memory := List Host.Cell

/-- Everything the spec gives the machine (10_state.md R20-R43; the memory of R50). `FetchResult` is no part of it: it
lives inside one step (R39). -/
structure State where
  /-- A, the accumulator (R20). -/
  a : Byte
  /-- X, an index register (R21). -/
  x : Byte
  /-- Y, an index register (R22). -/
  y : Byte
  /-- PC (R24): at the start of a step the address of the opcode byte (R25). -/
  pc : Addr
  /-- SP (R27): names the stack byte at 0x0100 + SP. -/
  sp : Byte
  /-- P, the status register (R29), all eight bits plain storage (R31). -/
  p : Byte
  /-- The cycle counter (R35): unbounded. -/
  cycles : Nat
  /-- The unknown-opcode halt (R36). -/
  halted : Bool
  /-- The byte that caused the halt (R37): diagnostic. -/
  haltOpcode : Byte
  /-- The page-crossing condition inside a step (R38): false before and after every step (log entry 5). -/
  pageCrossed : Bool
  /-- The 64 KiB of memory behind the memory port (R7, R50). -/
  mem : Memory
  deriving DecidableEq, Repr

/-- The faults of this hardware: none. "No memory access can fault", no arithmetic faults, and no stack overflow is
detected (60_exceptions.md R183). The unknown-opcode condition is a next state, the halted one (R180). -/
inductive Fault
  deriving DecidableEq, Repr

/-- The refusals. -/
inductive Refusal where
  /-- Raised by a refused arm of `exec`: an instruction with no meaning yet (safe: the run stops). Every arm has its
  meaning, so no step answers it. -/
  | notModelled (mnemonic : String)
  deriving DecidableEq, Repr

/-- What a step answers on this machine. -/
abbrev Result := Host.Outcome State Fault Refusal

/-- Reset with the parameter `InitialPC` and a memory, which reset leaves as it is (R200, R203, R43). -/
def State.resetWith (initialPC : Addr) (mem : Memory) : State where
  a := 0x00#8
  x := 0x00#8
  y := 0x00#8
  pc := initialPC
  sp := 0xFD#8
  p := 0x00#8
  cycles := 0
  halted := false
  haltOpcode := 0x00#8
  pageCrossed := false
  mem := mem

/-- The machine right after reset, nothing loaded: PC is `InitialPC` at the value of log entry 1, and every byte of
memory reads 0x00 (R51). -/
def State.reset : State := State.resetWith Config.initialPC []

/-! ## Writing one field -/

/-- `a` written, the rest kept. -/
def State.setA (v : Byte) (s : State) : State := { s with a := v }
/-- `x` written, the rest kept. -/
def State.setX (v : Byte) (s : State) : State := { s with x := v }
/-- `y` written, the rest kept. -/
def State.setY (v : Byte) (s : State) : State := { s with y := v }
/-- `pc` written, the rest kept. -/
def State.setPc (v : Addr) (s : State) : State := { s with pc := v }
/-- `sp` written, the rest kept. -/
def State.setSp (v : Byte) (s : State) : State := { s with sp := v }
/-- `p` written, the rest kept. -/
def State.setP (v : Byte) (s : State) : State := { s with p := v }
/-- `cycles` written, the rest kept. -/
def State.setCycles (v : Nat) (s : State) : State := { s with cycles := v }
/-- `halted` written, the rest kept. -/
def State.setHalted (v : Bool) (s : State) : State := { s with halted := v }
/-- `haltOpcode` written, the rest kept. -/
def State.setHaltOpcode (v : Byte) (s : State) : State := { s with haltOpcode := v }
/-- `pageCrossed` written, the rest kept. -/
def State.setPageCrossed (v : Bool) (s : State) : State := { s with pageCrossed := v }
/-- `mem` written, the rest kept. -/
def State.setMem (v : Memory) (s : State) : State := { s with mem := v }

end Sys2Proof.Machine
end

