-- ==== Sys2Proof/Machine/Flags.lean ====
section
/-! DEFINITION. The bits of P (10_state.md R29) and the flag helper `setZN` (40_execution_engine.md R112). -/

namespace Sys2Proof.Machine

/-- The named bits of P (R29). -/
inductive Flag where
  | carry
  | zero
  | interruptDisable
  | decimal
  | brk
  | unused
  | overflow
  | negative
  deriving DecidableEq, Repr

/-- The bit number of a flag (R29). -/
def Flag.bit : Flag → Nat
  | .carry => 0
  | .zero => 1
  | .interruptDisable => 2
  | .decimal => 3
  | .brk => 4
  | .unused => 5
  | .overflow => 6
  | .negative => 7

/-- The mask of a flag (R29). -/
def Flag.mask : Flag → Byte
  | .carry => 0x01#8
  | .zero => 0x02#8
  | .interruptDisable => 0x04#8
  | .decimal => 0x08#8
  | .brk => 0x10#8
  | .unused => 0x20#8
  | .overflow => 0x40#8
  | .negative => 0x80#8

/-- One bit of a status byte. -/
def flagOf (f : Flag) (p : Byte) : Bool := p.getLsbD f.bit

/-- A status byte with one bit written. -/
def withFlag (f : Flag) (v : Bool) (p : Byte) : Byte :=
  if v then p ||| f.mask else p &&& ~~~f.mask

/-- The bit `f` of the status register. -/
def State.flag (f : Flag) (s : State) : Bool := flagOf f s.p

/-- Writes the bit `f` of the status register and no other bit. -/
def State.setFlag (f : Flag) (v : Bool) (s : State) : State := s.setP (withFlag f v s.p)

/-- The status byte after `setZN(v)`: Z iff `v` is 0, N iff bit 7 of `v` is set, the rest as before (R112). -/
def znStatus (v p : Byte) : Byte := withFlag .negative v.msb (withFlag .zero (v == 0x00#8) p)

/-- `setZN(v)` (R112). -/
def setZN (v : Byte) (s : State) : State := s.setP (znStatus v s.p)

/-- The status byte an interrupt entry pushes: Break (0x10) and Unused (0x20) set (R186, R187; C1, D12). -/
def pushedStatus (p : Byte) : Byte := p ||| 0x30#8

end Sys2Proof.Machine
end

