-- ==== Sys2Proof/Machine/Ops.lean ====
section
/-! DEFINITION. The operations every instruction shares: the memory port, the program counter, the stack primitives,
fetching an instruction's bytes, the interrupt entry, the unknown-opcode halt, and the cycle accounting. -/

namespace Sys2Proof.Machine

/-! ## Memory (20_memory.md) -/

/-- The byte at address `n`: the listed one, or `Config.initialByte` (R51). -/
def Memory.lookup : Memory → Nat → Byte
  | [], _ => Config.initialByte
  | (k, v) :: m, n => if n = k then v else Memory.lookup m n

/-- The memory with `v` at address `n`, in the canonical form: what reads as an unlisted address is not listed. -/
def Memory.store : Memory → Nat → Byte → Memory
  | [], n, v => if v = Config.initialByte then [] else [(n, v)]
  | (k, w) :: m, n, v =>
    if n < k then
      if v = Config.initialByte then (k, w) :: m else (n, v) :: (k, w) :: m
    else if n = k then
      if v = Config.initialByte then m else (n, v) :: m
    else (k, w) :: Memory.store m n v

/-- `MemRead(addr, 1)`: total (R51, R7). -/
def Memory.read (m : Memory) (a : Addr) : Byte := Memory.lookup m a.toNat

/-- `MemWrite(addr, 1, v)`: always succeeds (R52, R7). -/
def Memory.write (m : Memory) (a : Addr) (v : Byte) : Memory := Memory.store m a.toNat v

/-- The canonical form of the part of a memory at or above address `lo`. -/
def Memory.wfFrom : Nat → Memory → Bool
  | _, [] => true
  | lo, (k, v) :: m =>
    decide (lo ≤ k) && decide (k < 65536) && decide (v ≠ Config.initialByte) && Memory.wfFrom (k + 1) m

/-- The canonical form: addresses strictly rising and inside the 16-bit space, no byte listed that an unlisted address
would read as. -/
def Memory.wf (m : Memory) : Bool := Memory.wfFrom 0 m

/-- The bytes at `n` addresses from `a` up, wrapping at 0xFFFF (R26). -/
def Memory.bytesFrom (m : Memory) : Addr → Nat → List Byte
  | _, 0 => []
  | a, n + 1 => m.read a :: Memory.bytesFrom m (a + 1) n

/-- Bytes laid down from `a` up, wrapping at 0xFFFF. -/
def Memory.writeBytes (m : Memory) : Addr → List Byte → Memory
  | _, [] => m
  | a, b :: bs => Memory.writeBytes (m.write a b) (a + 1) bs

/-- A little-endian 16-bit quantity from two single-byte reads (R53, R54). -/
def Memory.readLE (m : Memory) (lo hi : Addr) : Addr := leWord (m.read lo) (m.read hi)

/-- The pointer a zero-page byte names: its high byte is at `(ptr + 1) mod 256` (R54, R104, R105; D9). -/
def Memory.zeroPagePointer (m : Memory) (ptr : Byte) : Addr := m.readLE (zext16 ptr) (zext16 (ptr + 1))

/-- One byte read through the memory port. -/
def State.read (s : State) (a : Addr) : Byte := s.mem.read a

/-- One byte written through the memory port. -/
def State.write (a : Addr) (v : Byte) (s : State) : State := s.setMem (s.mem.write a v)

/-! ## Fetch (R92, R95) -/

/-- PC advanced by `n` bytes, modulo 2^16 (R26, R92). -/
def State.advance (n : Nat) (s : State) : State := s.setPc (s.pc + BitVec.ofNat 16 n)

/-- The fetch unit: PC steps over the opcode byte (R92). -/
def fetchOpcode (s : State) : State := s.advance 1

/-- The opcode byte at PC. -/
def opcodeAt (s : State) : Byte := s.read s.pc

/-- The instruction at PC; none when the opcode byte is a sentinel (R93, R94). The operand bytes are those at
increasing PC (R60); a byte that is no part of the instruction has no influence (R56; log entry 7). -/
def fetchInstr (s : State) : Option Instr :=
  instrAt? (opcodeAt s) (s.read (s.pc + 1)) (s.read (s.pc + 2))

/-! ## The stack (R58, R59) -/

/-- The address SP names: `0x0100 + zext_16(SP)` (R27). -/
def stackAddr (sp : Byte) : Addr := 0x0100#16 + zext16 sp

/-- `Push(v)`: store, then decrement SP modulo 256 (R58). -/
def push (v : Byte) (s : State) : State := (s.write (stackAddr s.sp) v).setSp (s.sp - 1)

/-- SP after `Pop()`, incremented modulo 256. -/
def popState (s : State) : State := s.setSp (s.sp + 1)

/-- The byte `Pop()` returns: read after the increment (R59; PRESUMED by the spec, log entry 14). No in-scope
instruction pops. -/
def popValue (s : State) : Byte := s.read (stackAddr (popState s).sp)

/-! ## Events (60_exceptions.md) -/

/-- The BRK vector's low byte (R188). -/
def brkVectorLow : Addr := 0xFFFE#16

/-- The BRK vector's high byte (R188). -/
def brkVectorHigh : Addr := 0xFFFF#16

/-- The three pushes of an interrupt entry: PC high, PC low, P with Break and Unused set (R186 actions 1 to 3). -/
def pushFrame (s : State) : State :=
  push (pushedStatus s.p) (push (lowByte s.pc) (push (highByte s.pc) s))

/-- PC loaded from the vector, read after the pushes (R186 action 5, R188). -/
def loadVector (s : State) : State := s.setPc (s.mem.readLE brkVectorLow brkVectorHigh)

/-- `InterruptEntry()`: pushes, then I set, then the vector loaded (R186). There is no return from it (R190). -/
def interruptEntry (s : State) : State := loadVector ((pushFrame s).setFlag .interruptDisable true)

/-- `raise UnknownOpcode(op)` at the instruction address `ia`: PC restored, the byte recorded, the core halted
(R180). -/
def raiseUnknownOpcode (ia : Addr) (op : Byte) (s : State) : State :=
  ((s.setPc ia).setHaltOpcode op).setHalted true

/-! ## Cycle accounting (R111) -/

/-- The cycles a page crossing adds. -/
def penalty (crossed : Bool) : Nat := if crossed then 1 else 0

/-- The accounting phase: base cost and page-cross penalty added once, the condition cleared (R111). -/
def account (baseCycles : Nat) (s : State) : State :=
  (s.setCycles (s.cycles + baseCycles + penalty s.pageCrossed)).setPageCrossed false

end Sys2Proof.Machine
end

