-- ==== Sys2Proof/Machine/Operands.lean ====
section
/-! DEFINITION. The addressing-mode resolver, the operand shaping and the engine around a handler
(40_execution_engine.md R90, R95-R111). -/

namespace Sys2Proof.Machine

/-- The resolved operand of one step (R39). -/
structure FetchResult where
  address : Addr
  value   : Byte
  deriving DecidableEq, Repr

/-- The 16-bit base of the modes that index a 16-bit address (R102, R103, R105); for another mode, its address
before indexing plays no part. -/
def indexedBase? (o : Operand) (s : State) : Option Addr :=
  match o with
  | .absoluteX base => some base
  | .absoluteY base => some base
  | .indirectY zp => some (s.mem.zeroPagePointer zp)
  | .implied | .immediate _ | .zeroPage _ | .zeroPageX _ | .zeroPageY _ | .absolute _ | .indirectX _ => none

/-- `fr.address` (R96-R105), computed in a state whose PC is at the operand bytes. Zero-page index arithmetic is 8-bit
and wraps in the page (R99, R100, R104); 16-bit sums wrap at 2^16 (R102, R103, R105). The address of an Immediate is
that of its byte, which no handler observes (R97, D25); Implied has none and keeps 0 (R96). -/
def effectiveAddress (o : Operand) (s : State) : Addr :=
  match o with
  | .implied => 0x0000#16
  | .immediate _ => s.pc
  | .zeroPage zp => zext16 zp
  | .zeroPageX zp => zext16 (zp + s.x)
  | .zeroPageY zp => zext16 (zp + s.y)
  | .absolute w => w
  | .absoluteX base => base + zext16 s.x
  | .absoluteY base => base + zext16 s.y
  | .indirectX zp => s.mem.zeroPagePointer (zp + s.x)
  | .indirectY zp => s.mem.zeroPagePointer zp + zext16 s.y

/-- Whether the resolver reports a page crossing: an indexed 16-bit base and the effective address differ in their
high byte, for every access kind (R107; D8). -/
def crossesPage (o : Operand) (s : State) : Bool :=
  match indexedBase? o s with
  | some base => highByte base != highByte (effectiveAddress o s)
  | none => false

/-- An access kind whose handler is given a value (R106). -/
def needsValue : AccessKind → Bool
  | .read | .readModifyWrite => true
  | .write | .implied => false

/-- `fr.value`: the consumed byte of an Immediate (R97); else, when the kind requires a value, the byte at the
effective address (R106); else 0. -/
def operandValue (kind : AccessKind) (o : Operand) (s : State) : Byte :=
  match o with
  | .implied => 0x00#8
  | .immediate imm => imm
  | .zeroPage _ | .zeroPageX _ | .zeroPageY _ | .absolute _ | .absoluteX _ | .absoluteY _ | .indirectX _
  | .indirectY _ => if needsValue kind then s.read (effectiveAddress o s) else 0x00#8

/-- The resolver's `fr` (R95-R106). -/
def resolve (kind : AccessKind) (o : Operand) (s : State) : FetchResult :=
  ⟨effectiveAddress o s, operandValue kind o s⟩

/-- What the resolver leaves in the state: PC past the operand bytes and `pageCrossed`, nothing else (R95, R107,
R108). -/
def consumeOperand (o : Operand) (s : State) : State :=
  (s.advance o.mode.operandBytes).setPageCrossed (crossesPage o s)

/-- `addrArg` of R109. -/
def addrArg (kind : AccessKind) (fr : FetchResult) : Addr :=
  match kind with
  | .write | .readModifyWrite => fr.address
  | .read | .implied => 0x0000#16

/-- `valArg` of R109. -/
def valArg (kind : AccessKind) (fr : FetchResult) : Byte :=
  match kind with
  | .read | .readModifyWrite => fr.value
  | .write | .implied => 0x00#8

/-- An operation handler (R110): given `(addrArg, valArg)`, it changes registers and memory, and never `cycles`,
`halted`, `haltOpcode` or `pageCrossed`. -/
abbrev Handler := Addr → Byte → State → State

/-- The state a handler starts in: the opcode fetched and the operand consumed (R90, R110). -/
def handlerState (o : Operand) (s : State) : State := consumeOperand o (fetchOpcode s)

/-- The step of an implemented opcode with descriptor `d`: fetch, resolve, shape, operate, account (R90), from a state
whose PC is at the opcode byte. It always completes (R113). -/
def transact (d : Descriptor) (o : Operand) (operate : Handler) (s : State) : State :=
  let fr := resolve d.accessKind o (fetchOpcode s)
  account d.baseCycles (operate (addrArg d.accessKind fr) (valArg d.accessKind fr) (handlerState o s))

/-- `transact` as a step's answer. -/
def run (d : Descriptor) (o : Operand) (operate : Handler) (s : State) : Result :=
  .next (transact d o operate s)

end Sys2Proof.Machine
end

