-- ==== Sys2Proof/Machine/FlagClear.lean ====
section
/-! DEFINITION. Flag clears (45_flag_clear.md): one handler per mnemonic, one meaning per opcode byte. -/

namespace Sys2Proof.Machine

/-- CLC (R160): `P.C <- 0`. -/
def handleClc : Handler := fun _ _ s => s.setFlag .carry false

/-- `CLC` (R160, opcode 0x18). -/
def execClc (s : State) : Result := run (table 0x18#8) .implied handleClc s

/-- CLD (R161): `P.D <- 0`. -/
def handleCld : Handler := fun _ _ s => s.setFlag .decimal false

/-- `CLD` (R161, opcode 0xD8). -/
def execCld (s : State) : Result := run (table 0xD8#8) .implied handleCld s

/-- CLI (R162): `P.I <- 0`. -/
def handleCli : Handler := fun _ _ s => s.setFlag .interruptDisable false

/-- `CLI` (R162, opcode 0x58). -/
def execCli (s : State) : Result := run (table 0x58#8) .implied handleCli s

/-- CLV (R163): `P.V <- 0`. -/
def handleClv : Handler := fun _ _ s => s.setFlag .overflow false

/-- `CLV` (R163, opcode 0xB8). -/
def execClv (s : State) : Result := run (table 0xB8#8) .implied handleClv s

end Sys2Proof.Machine
end

