-- ==== Sys2Proof/Machine/IncDec.lean ====
section
/-! DEFINITION. Increments and decrements (43_increment_decrement.md): one handler per mnemonic, one meaning per opcode byte. -/

namespace Sys2Proof.Machine

/-- INC (R140): `r <- valArg + 1; MemWrite(addrArg, 1, r); setZN(r)`. -/
def handleInc : Handler := fun addr v s => setZN (v + 1) (s.write addr (v + 1))

/-- `INC $nn` (R140, opcode 0xE6). -/
def execIncZeroPage (zp : Byte) (s : State) : Result := run (table 0xE6#8) (.zeroPage zp) handleInc s

/-- `INC $nn,X` (R140, opcode 0xF6). -/
def execIncZeroPageX (zp : Byte) (s : State) : Result := run (table 0xF6#8) (.zeroPageX zp) handleInc s

/-- `INC $hhll` (R140, opcode 0xEE). -/
def execIncAbsolute (abs : Addr) (s : State) : Result := run (table 0xEE#8) (.absolute abs) handleInc s

/-- `INC $hhll,X` (R140, opcode 0xFE). -/
def execIncAbsoluteX (abs : Addr) (s : State) : Result := run (table 0xFE#8) (.absoluteX abs) handleInc s

/-- DEC (R141): `r <- valArg - 1; MemWrite(addrArg, 1, r); setZN(r)`. -/
def handleDec : Handler := fun addr v s => setZN (v - 1) (s.write addr (v - 1))

/-- `DEC $nn` (R141, opcode 0xC6). -/
def execDecZeroPage (zp : Byte) (s : State) : Result := run (table 0xC6#8) (.zeroPage zp) handleDec s

/-- `DEC $nn,X` (R141, opcode 0xD6). -/
def execDecZeroPageX (zp : Byte) (s : State) : Result := run (table 0xD6#8) (.zeroPageX zp) handleDec s

/-- `DEC $hhll` (R141, opcode 0xCE). -/
def execDecAbsolute (abs : Addr) (s : State) : Result := run (table 0xCE#8) (.absolute abs) handleDec s

/-- `DEC $hhll,X` (R141, opcode 0xDE). -/
def execDecAbsoluteX (abs : Addr) (s : State) : Result := run (table 0xDE#8) (.absoluteX abs) handleDec s

/-- INX (R142): `X <- X + 1; setZN(X)`. -/
def handleInx : Handler := fun _ _ s => setZN (s.x + 1) (s.setX (s.x + 1))

/-- `INX` (R142, opcode 0xE8). -/
def execInx (s : State) : Result := run (table 0xE8#8) .implied handleInx s

/-- INY (R143): `Y <- Y + 1; setZN(Y)`. -/
def handleIny : Handler := fun _ _ s => setZN (s.y + 1) (s.setY (s.y + 1))

/-- `INY` (R143, opcode 0xC8). -/
def execIny (s : State) : Result := run (table 0xC8#8) .implied handleIny s

/-- DEX (R144): `X <- X - 1; setZN(X)`. -/
def handleDex : Handler := fun _ _ s => setZN (s.x - 1) (s.setX (s.x - 1))

/-- `DEX` (R144, opcode 0xCA). -/
def execDex (s : State) : Result := run (table 0xCA#8) .implied handleDex s

/-- DEY (R145): `Y <- Y - 1; setZN(Y)`. -/
def handleDey : Handler := fun _ _ s => setZN (s.y - 1) (s.setY (s.y - 1))

/-- `DEY` (R145, opcode 0x88). -/
def execDey (s : State) : Result := run (table 0x88#8) .implied handleDey s

end Sys2Proof.Machine
end

