-- ==== Sys2Proof/Machine/LoadStore.lean ====
section
/-! DEFINITION. Loads and stores (41_load_store.md): one handler per mnemonic, one meaning per opcode byte. -/

namespace Sys2Proof.Machine

/-- LDA (R120): `A <- valArg; setZN(A)`. -/
def handleLda : Handler := fun _ v s => setZN v (s.setA v)

/-- `LDA #$nn` (R120, opcode 0xA9). -/
def execLdaImmediate (imm : Byte) (s : State) : Result := run (table 0xA9#8) (.immediate imm) handleLda s

/-- `LDA $nn` (R120, opcode 0xA5). -/
def execLdaZeroPage (zp : Byte) (s : State) : Result := run (table 0xA5#8) (.zeroPage zp) handleLda s

/-- `LDA $nn,X` (R120, opcode 0xB5). -/
def execLdaZeroPageX (zp : Byte) (s : State) : Result := run (table 0xB5#8) (.zeroPageX zp) handleLda s

/-- `LDA $hhll` (R120, opcode 0xAD). -/
def execLdaAbsolute (abs : Addr) (s : State) : Result := run (table 0xAD#8) (.absolute abs) handleLda s

/-- `LDA $hhll,X` (R120, opcode 0xBD). -/
def execLdaAbsoluteX (abs : Addr) (s : State) : Result := run (table 0xBD#8) (.absoluteX abs) handleLda s

/-- `LDA $hhll,Y` (R120, opcode 0xB9). -/
def execLdaAbsoluteY (abs : Addr) (s : State) : Result := run (table 0xB9#8) (.absoluteY abs) handleLda s

/-- `LDA ($nn,X)` (R120, opcode 0xA1). -/
def execLdaIndirectX (zp : Byte) (s : State) : Result := run (table 0xA1#8) (.indirectX zp) handleLda s

/-- `LDA ($nn),Y` (R120, opcode 0xB1). -/
def execLdaIndirectY (zp : Byte) (s : State) : Result := run (table 0xB1#8) (.indirectY zp) handleLda s

/-- LDX (R121): `X <- valArg; setZN(X)`. -/
def handleLdx : Handler := fun _ v s => setZN v (s.setX v)

/-- `LDX #$nn` (R121, opcode 0xA2). -/
def execLdxImmediate (imm : Byte) (s : State) : Result := run (table 0xA2#8) (.immediate imm) handleLdx s

/-- `LDX $nn` (R121, opcode 0xA6). -/
def execLdxZeroPage (zp : Byte) (s : State) : Result := run (table 0xA6#8) (.zeroPage zp) handleLdx s

/-- `LDX $nn,Y` (R121, opcode 0xB6). -/
def execLdxZeroPageY (zp : Byte) (s : State) : Result := run (table 0xB6#8) (.zeroPageY zp) handleLdx s

/-- `LDX $hhll` (R121, opcode 0xAE). -/
def execLdxAbsolute (abs : Addr) (s : State) : Result := run (table 0xAE#8) (.absolute abs) handleLdx s

/-- `LDX $hhll,Y` (R121, opcode 0xBE). -/
def execLdxAbsoluteY (abs : Addr) (s : State) : Result := run (table 0xBE#8) (.absoluteY abs) handleLdx s

/-- LDY (R122): `Y <- valArg; setZN(Y)`. -/
def handleLdy : Handler := fun _ v s => setZN v (s.setY v)

/-- `LDY #$nn` (R122, opcode 0xA0). -/
def execLdyImmediate (imm : Byte) (s : State) : Result := run (table 0xA0#8) (.immediate imm) handleLdy s

/-- `LDY $nn` (R122, opcode 0xA4). -/
def execLdyZeroPage (zp : Byte) (s : State) : Result := run (table 0xA4#8) (.zeroPage zp) handleLdy s

/-- `LDY $nn,X` (R122, opcode 0xB4). -/
def execLdyZeroPageX (zp : Byte) (s : State) : Result := run (table 0xB4#8) (.zeroPageX zp) handleLdy s

/-- `LDY $hhll` (R122, opcode 0xAC). -/
def execLdyAbsolute (abs : Addr) (s : State) : Result := run (table 0xAC#8) (.absolute abs) handleLdy s

/-- `LDY $hhll,X` (R122, opcode 0xBC). -/
def execLdyAbsoluteX (abs : Addr) (s : State) : Result := run (table 0xBC#8) (.absoluteX abs) handleLdy s

/-- STA (R123): `MemWrite(addrArg, 1, A)`, no flag. -/
def handleSta : Handler := fun addr _ s => s.write addr s.a

/-- `STA $nn` (R123, opcode 0x85). -/
def execStaZeroPage (zp : Byte) (s : State) : Result := run (table 0x85#8) (.zeroPage zp) handleSta s

/-- `STA $nn,X` (R123, opcode 0x95). -/
def execStaZeroPageX (zp : Byte) (s : State) : Result := run (table 0x95#8) (.zeroPageX zp) handleSta s

/-- `STA $hhll` (R123, opcode 0x8D). -/
def execStaAbsolute (abs : Addr) (s : State) : Result := run (table 0x8D#8) (.absolute abs) handleSta s

/-- `STA $hhll,X` (R123, opcode 0x9D). -/
def execStaAbsoluteX (abs : Addr) (s : State) : Result := run (table 0x9D#8) (.absoluteX abs) handleSta s

/-- `STA $hhll,Y` (R123, opcode 0x99). -/
def execStaAbsoluteY (abs : Addr) (s : State) : Result := run (table 0x99#8) (.absoluteY abs) handleSta s

/-- `STA ($nn,X)` (R123, opcode 0x81). -/
def execStaIndirectX (zp : Byte) (s : State) : Result := run (table 0x81#8) (.indirectX zp) handleSta s

/-- `STA ($nn),Y` (R123, opcode 0x91). -/
def execStaIndirectY (zp : Byte) (s : State) : Result := run (table 0x91#8) (.indirectY zp) handleSta s

/-- STX (R124): `MemWrite(addrArg, 1, X)`, no flag. -/
def handleStx : Handler := fun addr _ s => s.write addr s.x

/-- `STX $nn` (R124, opcode 0x86). -/
def execStxZeroPage (zp : Byte) (s : State) : Result := run (table 0x86#8) (.zeroPage zp) handleStx s

/-- `STX $nn,Y` (R124, opcode 0x96). -/
def execStxZeroPageY (zp : Byte) (s : State) : Result := run (table 0x96#8) (.zeroPageY zp) handleStx s

/-- `STX $hhll` (R124, opcode 0x8E). -/
def execStxAbsolute (abs : Addr) (s : State) : Result := run (table 0x8E#8) (.absolute abs) handleStx s

/-- STY (R125): `MemWrite(addrArg, 1, Y)`, no flag. -/
def handleSty : Handler := fun addr _ s => s.write addr s.y

/-- `STY $nn` (R125, opcode 0x84). -/
def execStyZeroPage (zp : Byte) (s : State) : Result := run (table 0x84#8) (.zeroPage zp) handleSty s

/-- `STY $nn,X` (R125, opcode 0x94). -/
def execStyZeroPageX (zp : Byte) (s : State) : Result := run (table 0x94#8) (.zeroPageX zp) handleSty s

/-- `STY $hhll` (R125, opcode 0x8C). -/
def execStyAbsolute (abs : Addr) (s : State) : Result := run (table 0x8C#8) (.absolute abs) handleSty s

end Sys2Proof.Machine
end

