-- ==== Sys2Proof/Machine/Logical.lean ====
section
/-! DEFINITION. AND and ORA (42_logical.md): one handler per mnemonic, one meaning per opcode byte. -/

namespace Sys2Proof.Machine

/-- AND (R130): `A <- A & valArg; setZN(A)`. -/
def handleAnd : Handler := fun _ v s => setZN (s.a &&& v) (s.setA (s.a &&& v))

/-- `AND #$nn` (R130, opcode 0x29). -/
def execAndImmediate (imm : Byte) (s : State) : Result := run (table 0x29#8) (.immediate imm) handleAnd s

/-- `AND $nn` (R130, opcode 0x25). -/
def execAndZeroPage (zp : Byte) (s : State) : Result := run (table 0x25#8) (.zeroPage zp) handleAnd s

/-- `AND $nn,X` (R130, opcode 0x35). -/
def execAndZeroPageX (zp : Byte) (s : State) : Result := run (table 0x35#8) (.zeroPageX zp) handleAnd s

/-- `AND $hhll` (R130, opcode 0x2D). -/
def execAndAbsolute (abs : Addr) (s : State) : Result := run (table 0x2D#8) (.absolute abs) handleAnd s

/-- `AND $hhll,X` (R130, opcode 0x3D). -/
def execAndAbsoluteX (abs : Addr) (s : State) : Result := run (table 0x3D#8) (.absoluteX abs) handleAnd s

/-- `AND $hhll,Y` (R130, opcode 0x39). -/
def execAndAbsoluteY (abs : Addr) (s : State) : Result := run (table 0x39#8) (.absoluteY abs) handleAnd s

/-- `AND ($nn,X)` (R130, opcode 0x21). -/
def execAndIndirectX (zp : Byte) (s : State) : Result := run (table 0x21#8) (.indirectX zp) handleAnd s

/-- `AND ($nn),Y` (R130, opcode 0x31). -/
def execAndIndirectY (zp : Byte) (s : State) : Result := run (table 0x31#8) (.indirectY zp) handleAnd s

/-- ORA (R131): `A <- A | valArg; setZN(A)`. -/
def handleOra : Handler := fun _ v s => setZN (s.a ||| v) (s.setA (s.a ||| v))

/-- `ORA #$nn` (R131, opcode 0x09). -/
def execOraImmediate (imm : Byte) (s : State) : Result := run (table 0x09#8) (.immediate imm) handleOra s

/-- `ORA $nn` (R131, opcode 0x05). -/
def execOraZeroPage (zp : Byte) (s : State) : Result := run (table 0x05#8) (.zeroPage zp) handleOra s

/-- `ORA $nn,X` (R131, opcode 0x15). -/
def execOraZeroPageX (zp : Byte) (s : State) : Result := run (table 0x15#8) (.zeroPageX zp) handleOra s

/-- `ORA $hhll` (R131, opcode 0x0D). -/
def execOraAbsolute (abs : Addr) (s : State) : Result := run (table 0x0D#8) (.absolute abs) handleOra s

/-- `ORA $hhll,X` (R131, opcode 0x1D). -/
def execOraAbsoluteX (abs : Addr) (s : State) : Result := run (table 0x1D#8) (.absoluteX abs) handleOra s

/-- `ORA $hhll,Y` (R131, opcode 0x19). -/
def execOraAbsoluteY (abs : Addr) (s : State) : Result := run (table 0x19#8) (.absoluteY abs) handleOra s

/-- `ORA ($nn,X)` (R131, opcode 0x01). -/
def execOraIndirectX (zp : Byte) (s : State) : Result := run (table 0x01#8) (.indirectX zp) handleOra s

/-- `ORA ($nn),Y` (R131, opcode 0x11). -/
def execOraIndirectY (zp : Byte) (s : State) : Result := run (table 0x11#8) (.indirectY zp) handleOra s

end Sys2Proof.Machine
end

