-- ==== Sys2Proof/Machine/SoftwareInterrupt.lean ====
section
/-! DEFINITION. BRK (46_software_interrupt.md): one handler per mnemonic, one meaning per opcode byte. -/

namespace Sys2Proof.Machine

/-- BRK (R170): PC past the padding byte, which is not read, then `InterruptEntry()`. -/
def handleBrk : Handler := fun _ _ s => interruptEntry (s.advance 1)

/-- `BRK` (R170, opcode 0x00). -/
def execBrk (s : State) : Result := run (table 0x00#8) .implied handleBrk s

end Sys2Proof.Machine
end

