-- ==== Sys2Proof/Machine/Transfer.lean ====
section
/-! DEFINITION. Register transfers (44_transfer.md): one handler per mnemonic, one meaning per opcode byte. -/

namespace Sys2Proof.Machine

/-- TAX (R150): `X <- A; setZN(X)`. -/
def handleTax : Handler := fun _ _ s => setZN s.a (s.setX s.a)

/-- `TAX` (R150, opcode 0xAA). -/
def execTax (s : State) : Result := run (table 0xAA#8) .implied handleTax s

/-- TAY (R151): `Y <- A; setZN(Y)`. -/
def handleTay : Handler := fun _ _ s => setZN s.a (s.setY s.a)

/-- `TAY` (R151, opcode 0xA8). -/
def execTay (s : State) : Result := run (table 0xA8#8) .implied handleTay s

/-- TXA (R152): `A <- X; setZN(A)`. -/
def handleTxa : Handler := fun _ _ s => setZN s.x (s.setA s.x)

/-- `TXA` (R152, opcode 0x8A). -/
def execTxa (s : State) : Result := run (table 0x8A#8) .implied handleTxa s

/-- TYA (R153): `A <- Y; setZN(A)`. -/
def handleTya : Handler := fun _ _ s => setZN s.y (s.setA s.y)

/-- `TYA` (R153, opcode 0x98). -/
def execTya (s : State) : Result := run (table 0x98#8) .implied handleTya s

/-- TSX (R154): `X <- SP; setZN(X)`. -/
def handleTsx : Handler := fun _ _ s => setZN s.sp (s.setX s.sp)

/-- `TSX` (R154, opcode 0xBA). -/
def execTsx (s : State) : Result := run (table 0xBA#8) .implied handleTsx s

/-- TXS (R155): `SP <- X`, no flag (C3). -/
def handleTxs : Handler := fun _ _ s => s.setSp s.x

/-- `TXS` (R155, opcode 0x9A). -/
def execTxs (s : State) : Result := run (table 0x9A#8) .implied handleTxs s

end Sys2Proof.Machine
end

