-- ==== Sys2Proof/Machine/Dispatch.lean ====
section
/-! DEFINITION. One arm per constructor of `Instr`, each one direct call of its meaning. -/

namespace Sys2Proof.Machine

def exec (i : Instr) (s : State) : Host.Outcome State Fault Refusal :=
  match i with
  | .ldaImmediate imm => Sys2Proof.Machine.execLdaImmediate imm s
  | .ldaZeroPage zp => Sys2Proof.Machine.execLdaZeroPage zp s
  | .ldaZeroPageX zp => Sys2Proof.Machine.execLdaZeroPageX zp s
  | .ldaAbsolute abs => Sys2Proof.Machine.execLdaAbsolute abs s
  | .ldaAbsoluteX abs => Sys2Proof.Machine.execLdaAbsoluteX abs s
  | .ldaAbsoluteY abs => Sys2Proof.Machine.execLdaAbsoluteY abs s
  | .ldaIndirectX zp => Sys2Proof.Machine.execLdaIndirectX zp s
  | .ldaIndirectY zp => Sys2Proof.Machine.execLdaIndirectY zp s
  | .ldxImmediate imm => Sys2Proof.Machine.execLdxImmediate imm s
  | .ldxZeroPage zp => Sys2Proof.Machine.execLdxZeroPage zp s
  | .ldxZeroPageY zp => Sys2Proof.Machine.execLdxZeroPageY zp s
  | .ldxAbsolute abs => Sys2Proof.Machine.execLdxAbsolute abs s
  | .ldxAbsoluteY abs => Sys2Proof.Machine.execLdxAbsoluteY abs s
  | .ldyImmediate imm => Sys2Proof.Machine.execLdyImmediate imm s
  | .ldyZeroPage zp => Sys2Proof.Machine.execLdyZeroPage zp s
  | .ldyZeroPageX zp => Sys2Proof.Machine.execLdyZeroPageX zp s
  | .ldyAbsolute abs => Sys2Proof.Machine.execLdyAbsolute abs s
  | .ldyAbsoluteX abs => Sys2Proof.Machine.execLdyAbsoluteX abs s
  | .staZeroPage zp => Sys2Proof.Machine.execStaZeroPage zp s
  | .staZeroPageX zp => Sys2Proof.Machine.execStaZeroPageX zp s
  | .staAbsolute abs => Sys2Proof.Machine.execStaAbsolute abs s
  | .staAbsoluteX abs => Sys2Proof.Machine.execStaAbsoluteX abs s
  | .staAbsoluteY abs => Sys2Proof.Machine.execStaAbsoluteY abs s
  | .staIndirectX zp => Sys2Proof.Machine.execStaIndirectX zp s
  | .staIndirectY zp => Sys2Proof.Machine.execStaIndirectY zp s
  | .stxZeroPage zp => Sys2Proof.Machine.execStxZeroPage zp s
  | .stxZeroPageY zp => Sys2Proof.Machine.execStxZeroPageY zp s
  | .stxAbsolute abs => Sys2Proof.Machine.execStxAbsolute abs s
  | .styZeroPage zp => Sys2Proof.Machine.execStyZeroPage zp s
  | .styZeroPageX zp => Sys2Proof.Machine.execStyZeroPageX zp s
  | .styAbsolute abs => Sys2Proof.Machine.execStyAbsolute abs s
  | .andImmediate imm => Sys2Proof.Machine.execAndImmediate imm s
  | .andZeroPage zp => Sys2Proof.Machine.execAndZeroPage zp s
  | .andZeroPageX zp => Sys2Proof.Machine.execAndZeroPageX zp s
  | .andAbsolute abs => Sys2Proof.Machine.execAndAbsolute abs s
  | .andAbsoluteX abs => Sys2Proof.Machine.execAndAbsoluteX abs s
  | .andAbsoluteY abs => Sys2Proof.Machine.execAndAbsoluteY abs s
  | .andIndirectX zp => Sys2Proof.Machine.execAndIndirectX zp s
  | .andIndirectY zp => Sys2Proof.Machine.execAndIndirectY zp s
  | .oraImmediate imm => Sys2Proof.Machine.execOraImmediate imm s
  | .oraZeroPage zp => Sys2Proof.Machine.execOraZeroPage zp s
  | .oraZeroPageX zp => Sys2Proof.Machine.execOraZeroPageX zp s
  | .oraAbsolute abs => Sys2Proof.Machine.execOraAbsolute abs s
  | .oraAbsoluteX abs => Sys2Proof.Machine.execOraAbsoluteX abs s
  | .oraAbsoluteY abs => Sys2Proof.Machine.execOraAbsoluteY abs s
  | .oraIndirectX zp => Sys2Proof.Machine.execOraIndirectX zp s
  | .oraIndirectY zp => Sys2Proof.Machine.execOraIndirectY zp s
  | .incZeroPage zp => Sys2Proof.Machine.execIncZeroPage zp s
  | .incZeroPageX zp => Sys2Proof.Machine.execIncZeroPageX zp s
  | .incAbsolute abs => Sys2Proof.Machine.execIncAbsolute abs s
  | .incAbsoluteX abs => Sys2Proof.Machine.execIncAbsoluteX abs s
  | .decZeroPage zp => Sys2Proof.Machine.execDecZeroPage zp s
  | .decZeroPageX zp => Sys2Proof.Machine.execDecZeroPageX zp s
  | .decAbsolute abs => Sys2Proof.Machine.execDecAbsolute abs s
  | .decAbsoluteX abs => Sys2Proof.Machine.execDecAbsoluteX abs s
  | .inx => Sys2Proof.Machine.execInx s
  | .iny => Sys2Proof.Machine.execIny s
  | .dex => Sys2Proof.Machine.execDex s
  | .dey => Sys2Proof.Machine.execDey s
  | .tax => Sys2Proof.Machine.execTax s
  | .tay => Sys2Proof.Machine.execTay s
  | .txa => Sys2Proof.Machine.execTxa s
  | .tya => Sys2Proof.Machine.execTya s
  | .tsx => Sys2Proof.Machine.execTsx s
  | .txs => Sys2Proof.Machine.execTxs s
  | .clc => Sys2Proof.Machine.execClc s
  | .cld => Sys2Proof.Machine.execCld s
  | .cli => Sys2Proof.Machine.execCli s
  | .clv => Sys2Proof.Machine.execClv s
  | .brk => Sys2Proof.Machine.execBrk s

end Sys2Proof.Machine
end

