-- ==== Sys2Proof/Machine/Step.lean ====
section
/-! DEFINITION. One step (40_execution_engine.md R90), and an instruction word placed where it is fetched next. -/

namespace Sys2Proof.Machine

/-- One step: nothing while halted (R91); else the opcode is fetched and looked up, a sentinel raises UNKNOWN_OPCODE
before any other work (R94, R180), and an instruction is carried out as a whole transaction (`exec`, R90, R113). -/
def step (s : State) : Host.Outcome State Fault Refusal :=
  if s.halted then .next s
  else
    match fetchInstr s with
    | none => .next (raiseUnknownOpcode s.pc (opcodeAt s) (fetchOpcode s))
    | some i => exec i s

/-- `s` with the instruction `w` of `nbits` bits (numbered as spec/opcode_table.json numbers them) stored at PC, and
not halted, since a halted core fetches nothing (log entry 10). -/
def State.withFetchWord (s : State) (nbits w : Nat) : State :=
  (s.setMem (s.mem.writeBytes s.pc (tableBytes nbits w))).setHalted false

end Sys2Proof.Machine
end

