-- ==== Sys2Proof/Machine/Assembly.lean ====
section
/-! DEFINITION. The assembler syntax (30_encoding.md R85; there is no pseudo-instruction, R86). Text only: no behaviour
depends on it, and an assembler's choice between a zero-page and an absolute form is the assembler's (R85). -/

namespace Sys2Proof.Machine

/-- One hexadecimal digit. -/
def hexDigit (n : Nat) : Char := "0123456789ABCDEF".toList.getD n '?'

/-- Two hexadecimal digits. -/
def hexByte (b : Byte) : String := String.ofList [hexDigit (b.toNat / 16), hexDigit (b.toNat % 16)]

/-- Four hexadecimal digits. -/
def hexAddr (w : Addr) : String := hexByte (highByte w) ++ hexByte (lowByte w)

/-- The mnemonic of an instruction: the descriptor's `name` (R74, R79). -/
def mnemonic (i : Instr) : String := (table i.opcode).name

/-- The operand spelling of each mode (R85). -/
def operandText : Operand → String
  | .implied => ""
  | .immediate b => " #$" ++ hexByte b
  | .zeroPage b => " $" ++ hexByte b
  | .zeroPageX b => " $" ++ hexByte b ++ ",X"
  | .zeroPageY b => " $" ++ hexByte b ++ ",Y"
  | .absolute w => " $" ++ hexAddr w
  | .absoluteX w => " $" ++ hexAddr w ++ ",X"
  | .absoluteY w => " $" ++ hexAddr w ++ ",Y"
  | .indirectX b => " ($" ++ hexByte b ++ ",X)"
  | .indirectY b => " ($" ++ hexByte b ++ "),Y"

/-- An instruction in assembler text (R85). -/
def assemblyText (i : Instr) : String := mnemonic i ++ operandText i.operand

end Sys2Proof.Machine
end

