-- ==== Sys2Proof/Machine/Bus.lean ====
section
/-! DEFINITION. The memory port (00_scope.md R7): the single-byte accesses one step makes, in order (20_memory.md R60,
R61). Memory has no side effect beyond storage (R56), so the step function itself needs no such list; this one says
what an observer of the port sees (log entry 11). -/

namespace Sys2Proof.Machine

/-- One access on the memory port. -/
inductive Access where
  | read (addr : Addr)
  | write (addr : Addr) (v : Byte)
  deriving DecidableEq, Repr

/-- Whether an access is a write. -/
def Access.isWrite : Access → Bool
  | .read _ => false
  | .write _ _ => true

/-- R60 item 2: the operand bytes at increasing PC, `n` of them from `a` up. -/
def operandReads : Addr → Nat → List Access
  | _, 0 => []
  | a, n + 1 => .read a :: operandReads (a + 1) n

/-- The two reads of a zero-page pointer, low then high (R104, R105). -/
def pointerPair (ptr : Byte) : List Access := [.read (zext16 ptr), .read (zext16 (ptr + 1))]

/-- R60 item 3: the pointer reads of the indirect modes. -/
def pointerReads (o : Operand) (s : State) : List Access :=
  match o with
  | .indirectX zp => pointerPair (zp + s.x)
  | .indirectY zp => pointerPair zp
  | .implied | .immediate _ | .zeroPage _ | .zeroPageX _ | .zeroPageY _ | .absolute _ | .absoluteX _
  | .absoluteY _ => []

/-- R60 item 4: the read of the operand value at the effective address, for a kind that requires a value and a mode
that has an address. -/
def valueReads (kind : AccessKind) (o : Operand) (s : State) : List Access :=
  if needsValue kind && o.mode.hasAddress then [.read (effectiveAddress o s)] else []

/-- The accesses of an interrupt entry that starts in `s`: three pushes, then the vector (R60 item 5, R186). -/
def entryAccesses (s : State) : List Access := [
  .write (stackAddr s.sp) (highByte s.pc),
  .write (stackAddr (s.sp - 1)) (lowByte s.pc),
  .write (stackAddr (s.sp - 2)) (pushedStatus s.p),
  .read brkVectorLow,
  .read brkVectorHigh]

/-- R60 item 5: the accesses of a handler given `(addrArg, valArg)` in state `s`. -/
def handlerAccesses (f : Operate) (addr : Addr) (v : Byte) (s : State) : List Access :=
  match f with
  | .sta => [.write addr s.a]
  | .stx => [.write addr s.x]
  | .sty => [.write addr s.y]
  | .inc => [.write addr (v + 1)]
  | .dec => [.write addr (v - 1)]
  | .brk => entryAccesses (s.advance 1)
  | .lda | .ldx | .ldy | .and | .ora | .inx | .iny | .dex | .dey => []
  | .tax | .tay | .txa | .tya | .tsx | .txs | .clc | .cld | .cli | .clv | .unimplemented => []

/-- The accesses of an implemented instruction from a state whose PC is at its opcode byte (R60). -/
def instrAccesses (i : Instr) (s : State) : List Access :=
  let kind := (table i.opcode).accessKind
  let fr := resolve kind i.operand (fetchOpcode s)
  .read s.pc :: (operandReads (s.pc + 1) i.operand.mode.operandBytes
    ++ pointerReads i.operand s
    ++ valueReads kind i.operand s
    ++ handlerAccesses i.operate (addrArg kind fr) (valArg kind fr) (handlerState i.operand s))

/-- The accesses of one step: none while halted, the opcode fetch alone for an unknown opcode (R60). -/
def busTrace (s : State) : List Access :=
  if s.halted then []
  else
    match fetchInstr s with
    | none => [.read s.pc]
    | some i => instrAccesses i s

/-- What an access does to memory: a read nothing (R56), a write stores its byte (R52). -/
def Access.apply (m : Memory) : Access → Memory
  | .read _ => m
  | .write a v => m.write a v

/-- Accesses applied in order. -/
def replay (m : Memory) (trace : List Access) : Memory := trace.foldl Access.apply m

end Sys2Proof.Machine
end

