-- ==== Sys2Proof/Machine/HostPort.lean ====
section
/-! DEFINITION. What the host sees of the core and does to it between steps (00_scope.md R8-R11,
70_reset_and_hazards.md R200-R205). A host action during a step is not described by the spec (R204, R205; D14; log
entry 13). -/

namespace Sys2Proof.Machine

/-- The state observation and diagnostic ports (R9, R11, R182). -/
structure Observation where
  a          : Byte
  x          : Byte
  y          : Byte
  pc         : Addr
  sp         : Byte
  p          : Byte
  cycles     : Nat
  halted     : Bool
  haltOpcode : Byte
  deriving DecidableEq, Repr

/-- What the host reads between steps (R9). -/
def observe (s : State) : Observation where
  a := s.a
  x := s.x
  y := s.y
  pc := s.pc
  sp := s.sp
  p := s.p
  cycles := s.cycles
  halted := s.halted
  haltOpcode := s.haltOpcode

/-- The diagnostic name of the opcode at PC (R11, R79). -/
def opcodeName (s : State) : String := (table (opcodeAt s)).name

/-- Asserting `rst` with `init_pc`: the construction of R200 over the same memory (R203). It ends a halt (R201). -/
def State.applyReset (initialPC : Addr) (s : State) : State := State.resetWith initialPC s.mem

/-- What the host can do between steps. Reading memory or the register file changes nothing (R56, R9). -/
inductive HostAction where
  | step
  | reset (initialPC : Addr)
  | writeMemory (addr : Addr) (v : Byte)
  deriving DecidableEq, Repr

/-- One host action (R204, R205). -/
def hostAct (act : HostAction) (s : State) : Result :=
  match act with
  | .step => step s
  | .reset initialPC => .next (s.applyReset initialPC)
  | .writeMemory addr v => .next (s.write addr v)

/-- A sequence of host actions, stopping at the first that is no next state. -/
def hostRun : List HostAction → State → Result
  | [], s => .next s
  | act :: acts, s =>
    match hostAct act s with
    | .next t => hostRun acts t
    | .fault r => .fault r
    | .refused r => .refused r

/-- The events of one step (60_exceptions.md R183, R185). -/
inductive Event where
  | none
  | softwareInterrupt
  | unknownOpcode (op : Byte)
  deriving DecidableEq, Repr

/-- The event an opcode byte fixes: BRK for 0x00, UNKNOWN_OPCODE for a sentinel, none otherwise (R185). -/
def eventOfOpcode (op : Byte) : Event :=
  match (table op).operate with
  | .brk => .softwareInterrupt
  | .unimplemented => .unknownOpcode op
  | .lda | .ldx | .ldy | .sta | .stx | .sty | .and | .ora | .inc | .dec | .inx | .iny | .dex | .dey => .none
  | .tax | .tay | .txa | .tya | .tsx | .txs | .clc | .cld | .cli | .clv => .none

end Sys2Proof.Machine
end

