-- ==== Sys2Proof/Safety.lean ====
section
/-! DEFINITION. What claims say of states and runs: the invariant of the state, the flags that stay clear from reset,
running and reachable states. -/

namespace Sys2Proof.Machine

/-- The invariant between steps: memory in canonical form, and no page crossing pending (R38). -/
def State.Inv (s : State) : Prop := s.mem.wf = true ∧ s.pageCrossed = false

/-- The bits of P that no in-scope instruction can set: C, D, B, U and V (10_state.md R33). -/
def neverSetMask : Byte := 0x79#8

/-- A core that still runs: not halted (R36). -/
def State.Running (s : State) : Prop := s.halted = false

/-- A step is safe when it does not reach the unknown-opcode halt: it starts running and answers a state that runs. -/
def SafeStep (s : State) : Prop := s.Running ∧ ∃ t, step s = .next t ∧ t.Running

/-- `n` safe steps in a row. -/
def SafeFor : Nat → State → Prop
  | 0, s => s.Running
  | n + 1, s => s.Running ∧ ∃ t, step s = .next t ∧ SafeFor n t

/-- A state some sequence of host actions leads to from reset (R204-R206). -/
def Reachable (s : State) : Prop := ∃ acts, hostRun acts State.reset = .next s

end Sys2Proof.Machine
end

