-- ==== Sys2Proof/Certificates/Slice0/Obligations.lean ====
section
/-! DEFINITION. The statements for the provers. The definitions under `Claims` say in the spec's words what the
statements share; each obligation's docstring names the rules it formalises. -/

namespace Sys2Proof.Claims

open Sys2Proof.Machine

/-- P with Z and N taken from `v` and the bits C, I, D, B, U, V kept (R112), as one byte expression. -/
def zn (v p : Byte) : Byte := (p &&& 0x7D#8) ||| (if v = 0x00#8 then 0x02#8 else 0x00#8) ||| (v &&& 0x80#8)

/-- The byte a Read or ReadModifyWrite form works on: an Immediate's own byte, else the byte at the effective
address (R97, R106). -/
def operandByte (o : Operand) (s : State) : Byte :=
  match o with
  | .immediate imm => imm
  | o => s.read (effectiveAddress o s)

/-- The end of a completed instruction that is no control transfer: from `t`, PC past the opcode and operand bytes of
`i` counted from `s` (R110), cycles grown by the base cost and by one on a page crossing (R111), nothing pending. -/
def completed (i : Instr) (s t : State) : State :=
  { t with
    pc := s.pc + 1 + BitVec.ofNat 16 i.operand.mode.operandBytes
    cycles := s.cycles + (table i.opcode).baseCycles + (if crossesPage i.operand s then 1 else 0)
    pageCrossed := false }

/-- The handler `f` is encoded by exactly the listed opcode bytes, each in the listed mode with the listed base
cycles (R75). -/
def EncodedAs (f : Operate) (rows : List (Byte × AddrMode × Nat)) : Prop :=
  (∀ op b1 b2 i, instrAt? op b1 b2 = some i → i.operate = f → ∃ r ∈ rows, r.1 = op) ∧
  (∀ r ∈ rows, (table r.1).baseCycles = r.2.2 ∧ ∀ b1 b2, ∃ i, instrAt? r.1 b1 b2 = some i ∧ i.operate = f ∧
    i.operand = Operand.ofBytes r.2.1 b1 b2)

/-- The result value of a data-producing instruction (R32); none for the others, TXS among them (C3). -/
def resultOf (i : Instr) (s : State) : Option Byte :=
  match i.operate with
  | .lda | .ldx | .ldy => some (operandByte i.operand s)
  | .and => some (s.a &&& operandByte i.operand s)
  | .ora => some (s.a ||| operandByte i.operand s)
  | .inc => some (operandByte i.operand s + 1)
  | .dec => some (operandByte i.operand s - 1)
  | .inx => some (s.x + 1)
  | .iny => some (s.y + 1)
  | .dex => some (s.x - 1)
  | .dey => some (s.y - 1)
  | .tax | .tay => some s.a
  | .txa => some s.x
  | .tya => some s.y
  | .tsx => some s.sp
  | .sta | .stx | .sty | .txs | .clc | .cld | .cli | .clv | .brk | .unimplemented => none

/-- The byte a form stores at its effective address (R123-R125, R140, R141); none for a form that stores nothing, and
for BRK, whose three stores are on the stack. -/
def storedByte (i : Instr) (s : State) : Option Byte :=
  match i.operate with
  | .sta => some s.a
  | .stx => some s.x
  | .sty => some s.y
  | .inc => some (s.read (effectiveAddress i.operand s) + 1)
  | .dec => some (s.read (effectiveAddress i.operand s) - 1)
  | .lda | .ldx | .ldy | .and | .ora | .inx | .iny | .dex | .dey | .tax | .tay | .txa | .tya | .tsx | .txs
  | .clc | .cld | .cli | .clv | .brk | .unimplemented => none

/-- Bytes pushed one after another. -/
def pushAll : List Byte → State → State
  | [], s => s
  | v :: vs, s => pushAll vs (push v s)

/-- `u` is a state after `n` BRKs from `s`, each inside the handler of the one before: between two of them SP is as
the earlier one left it, and the rest is free (R191). -/
def NestedBrk : Nat → State → State → Prop
  | 0, s, u => u.sp = s.sp
  | n + 1, s, u => ∃ r t, NestedBrk n s r ∧ exec .brk r = .next t ∧ u.sp = t.sp

/-- R60 item 2: the addresses of the operand bytes, when the opcode is at `pc` (R97-R105). -/
def operandAddrs (o : Operand) (pc : Addr) : List Addr :=
  match o with
  | .implied => []
  | .immediate _ | .zeroPage _ | .zeroPageX _ | .zeroPageY _ | .indirectX _ | .indirectY _ => [pc + 1]
  | .absolute _ | .absoluteX _ | .absoluteY _ => [pc + 1, pc + 2]

/-- R60 item 3: the addresses of the two pointer bytes, low then high (R104, R105; D9). -/
def pointerAddrs (o : Operand) (s : State) : List Addr :=
  match o with
  | .indirectX zp =>
    [BitVec.ofNat 16 ((zp.toNat + s.x.toNat) % 256), BitVec.ofNat 16 ((zp.toNat + s.x.toNat + 1) % 256)]
  | .indirectY zp => [BitVec.ofNat 16 zp.toNat, BitVec.ofNat 16 ((zp.toNat + 1) % 256)]
  | .implied | .immediate _ | .zeroPage _ | .zeroPageX _ | .zeroPageY _ | .absolute _ | .absoluteX _
  | .absoluteY _ => []

/-- R60 item 4: the address of the operand value, for the mnemonics of kind Read and ReadModifyWrite (R75) in a mode
that is neither Implied nor Immediate. -/
def valueAddrs (i : Instr) (s : State) : List Addr :=
  if i.operate ∈ [Operate.lda, .ldx, .ldy, .and, .ora, .inc, .dec] ∧
      i.operand.mode ∉ [AddrMode.implied, .immediate] then
    [effectiveAddress i.operand s]
  else []

end Sys2Proof.Claims

open Sys2Proof Sys2Proof.Machine Sys2Proof.Claims

/-- R120, every form of LDA (ldaImmediate, ldaZeroPage, ldaZeroPageX, ldaAbsolute, ldaAbsoluteX, ldaAbsoluteY,
ldaIndirectX, ldaIndirectY), with its frame. The Encoding line, which the spec takes from general knowledge (D6, D7),
is in OpcodeMapOfEveryMnemonic; that PC wraps at 0xFFFF is D11. -/
def Obligations.LoadAccumulatorResult : Prop :=
  (∀ (i : Instr) (s : State), i.operate = .lda →
    exec i s = .next (completed i s { s with a := operandByte i.operand s, p := zn (operandByte i.operand s) s.p }))

/-- R121, every form of LDX (ldxImmediate, ldxZeroPage, ldxZeroPageY, ldxAbsolute, ldxAbsoluteY), with its frame. The
Encoding line, which the spec takes from general knowledge (D6, D7), is in OpcodeMapOfEveryMnemonic; that PC wraps at
0xFFFF is D11. -/
def Obligations.LoadIndexXResult : Prop :=
  (∀ (i : Instr) (s : State), i.operate = .ldx →
    exec i s = .next (completed i s { s with x := operandByte i.operand s, p := zn (operandByte i.operand s) s.p }))

/-- R122, every form of LDY (ldyImmediate, ldyZeroPage, ldyZeroPageX, ldyAbsolute, ldyAbsoluteX), with its frame. The
Encoding line, which the spec takes from general knowledge (D6, D7), is in OpcodeMapOfEveryMnemonic; that PC wraps at
0xFFFF is D11. -/
def Obligations.LoadIndexYResult : Prop :=
  (∀ (i : Instr) (s : State), i.operate = .ldy →
    exec i s = .next (completed i s { s with y := operandByte i.operand s, p := zn (operandByte i.operand s) s.p }))

/-- R123, every form of STA (staZeroPage, staZeroPageX, staAbsolute, staAbsoluteX, staAbsoluteY, staIndirectX,
staIndirectY), with its frame. The Encoding line, which the spec takes from general knowledge (D6, D7), is in
OpcodeMapOfEveryMnemonic; that PC wraps at 0xFFFF is D11. That a crossing costs these forms a cycle too is D8 (log
entry 17). -/
def Obligations.StoreAccumulatorResult : Prop :=
  (∀ (i : Instr) (s : State), i.operate = .sta →
    exec i s = .next (completed i s { s with mem := s.mem.write (effectiveAddress i.operand s) s.a })) ∧
  (∀ (i : Instr) (s : State), i.operate = .sta →
    (instrAccesses i s).filter Access.isWrite = [.write (effectiveAddress i.operand s) s.a] ∧
    Access.read (effectiveAddress i.operand s) ∉ valueReads (table i.opcode).accessKind i.operand s)

/-- R124, every form of STX (stxZeroPage, stxZeroPageY, stxAbsolute), with its frame. The Encoding line, which the
spec takes from general knowledge (D6, D7), is in OpcodeMapOfEveryMnemonic; that PC wraps at 0xFFFF is D11. -/
def Obligations.StoreXResult : Prop :=
  (∀ (i : Instr) (s : State), i.operate = .stx →
    exec i s = .next (completed i s { s with mem := s.mem.write (effectiveAddress i.operand s) s.x })) ∧
  (∀ (i : Instr) (s : State), i.operate = .stx → crossesPage i.operand s = false) ∧
  (∀ (zp : Byte) (s : State), (effectiveAddress (.zeroPageY zp) s).toNat = (zp.toNat + s.y.toNat) % 256)

/-- R125, every form of STY (styZeroPage, styZeroPageX, styAbsolute), with its frame. The Encoding line, which the
spec takes from general knowledge (D6, D7), is in OpcodeMapOfEveryMnemonic; that PC wraps at 0xFFFF is D11. -/
def Obligations.StoreYResult : Prop :=
  (∀ (i : Instr) (s : State), i.operate = .sty →
    exec i s = .next (completed i s { s with mem := s.mem.write (effectiveAddress i.operand s) s.y })) ∧
  (∀ (zp : Byte) (s : State), (effectiveAddress (.zeroPageX zp) s).toNat = (zp.toNat + s.x.toNat) % 256)

/-- R130, every form of AND (andImmediate, andZeroPage, andZeroPageX, andAbsolute, andAbsoluteX, andAbsoluteY,
andIndirectX, andIndirectY), with its frame. The Encoding line, which the spec takes from general knowledge (D6, D7),
is in OpcodeMapOfEveryMnemonic; that PC wraps at 0xFFFF is D11. -/
def Obligations.LogicalAndResult : Prop :=
  (∀ (i : Instr) (s : State), i.operate = .and →
    exec i s = .next (completed i s
      { s with a := s.a &&& operandByte i.operand s, p := zn (s.a &&& operandByte i.operand s) s.p }))

/-- R131, every form of ORA (oraImmediate, oraZeroPage, oraZeroPageX, oraAbsolute, oraAbsoluteX, oraAbsoluteY,
oraIndirectX, oraIndirectY), with its frame. The Encoding line, which the spec takes from general knowledge (D6, D7),
is in OpcodeMapOfEveryMnemonic; that PC wraps at 0xFFFF is D11. -/
def Obligations.LogicalOrResult : Prop :=
  (∀ (i : Instr) (s : State), i.operate = .ora →
    exec i s = .next (completed i s
      { s with a := s.a ||| operandByte i.operand s, p := zn (s.a ||| operandByte i.operand s) s.p })) ∧
  (∀ (i : Instr) (s t : State), i.operate = .ora → exec i s = .next t → (operandByte i.operand s).msb = true →
    flagOf .negative t.p = true)

/-- R140, every form of INC (incZeroPage, incZeroPageX, incAbsolute, incAbsoluteX), with its frame. The Encoding line,
which the spec takes from general knowledge (D6, D7), is in OpcodeMapOfEveryMnemonic; that PC wraps at 0xFFFF is D11.
That a crossing costs these forms a cycle too is D8 (log entry 17). -/
def Obligations.IncrementMemoryResult : Prop :=
  (∀ (i : Instr) (s : State), i.operate = .inc →
    exec i s = .next (completed i s
      { s with
        mem := s.mem.write (effectiveAddress i.operand s) (s.read (effectiveAddress i.operand s) + 1)
        p := zn (s.read (effectiveAddress i.operand s) + 1) s.p })) ∧
  (∀ (i : Instr) (s : State), i.operate = .inc →
    (instrAccesses i s).filter Access.isWrite
      = [.write (effectiveAddress i.operand s) (s.read (effectiveAddress i.operand s) + 1)])

/-- R141, every form of DEC (decZeroPage, decZeroPageX, decAbsolute, decAbsoluteX), with its frame. The Encoding line,
which the spec takes from general knowledge (D6, D7), is in OpcodeMapOfEveryMnemonic; that PC wraps at 0xFFFF is D11.
That a crossing costs these forms a cycle too is D8 (log entry 17). -/
def Obligations.DecrementMemoryResult : Prop :=
  (∀ (i : Instr) (s : State), i.operate = .dec →
    exec i s = .next (completed i s
      { s with
        mem := s.mem.write (effectiveAddress i.operand s) (s.read (effectiveAddress i.operand s) - 1)
        p := zn (s.read (effectiveAddress i.operand s) - 1) s.p }))

/-- R142-R145 (inx, iny, dex, dey), with their frame. The Encoding line, which the spec takes from general knowledge
(D6, D7), is in OpcodeMapOfEveryMnemonic; that PC wraps at 0xFFFF is D11. -/
def Obligations.RegisterIncrementDecrementResult : Prop :=
  (∀ s : State, exec .inx s = .next (completed .inx s { s with x := s.x + 1, p := zn (s.x + 1) s.p })) ∧
  (∀ s : State, exec .iny s = .next (completed .iny s { s with y := s.y + 1, p := zn (s.y + 1) s.p })) ∧
  (∀ s : State, exec .dex s = .next (completed .dex s { s with x := s.x - 1, p := zn (s.x - 1) s.p })) ∧
  (∀ s : State, exec .dey s = .next (completed .dey s { s with y := s.y - 1, p := zn (s.y - 1) s.p }))

/-- R150-R154 (tax, tay, txa, tya, tsx), with their frame. The Encoding line, which the spec takes from general
knowledge (D6, D7), is in OpcodeMapOfEveryMnemonic; that PC wraps at 0xFFFF is D11. -/
def Obligations.RegisterTransferResult : Prop :=
  (∀ s : State, exec .tax s = .next (completed .tax s { s with x := s.a, p := zn s.a s.p })) ∧
  (∀ s : State, exec .tay s = .next (completed .tay s { s with y := s.a, p := zn s.a s.p })) ∧
  (∀ s : State, exec .txa s = .next (completed .txa s { s with a := s.x, p := zn s.x s.p })) ∧
  (∀ s : State, exec .tya s = .next (completed .tya s { s with a := s.y, p := zn s.y s.p })) ∧
  (∀ s : State, exec .tsx s = .next (completed .tsx s { s with x := s.sp, p := zn s.sp s.p }))

/-- R155 (txs), with its frame. The Encoding line, which the spec takes from general knowledge (D6, D7), is in
OpcodeMapOfEveryMnemonic; that PC wraps at 0xFFFF is D11. -/
def Obligations.TransferToStackPointerResult : Prop :=
  (∀ s : State, exec .txs s = .next (completed .txs s { s with sp := s.x })) ∧
  (∀ (s t : State) (v : Byte), exec .txs s = .next t →
    (push v t).mem = t.mem.write (0x0100#16 + s.x.setWidth 16) v)

/-- R160, and the effects of R161, R162 and R163 (clc, cld, cli, clv), with their frame. The Encoding line, which the
spec takes from general knowledge (D6, D7), is in OpcodeMapOfEveryMnemonic; that PC wraps at 0xFFFF is D11. -/
def Obligations.FlagClearResult : Prop :=
  (∀ s : State, exec .clc s = .next (completed .clc s { s with p := s.p &&& 0xFE#8 })) ∧
  (∀ s : State, exec .cld s = .next (completed .cld s { s with p := s.p &&& 0xF7#8 })) ∧
  (∀ s : State, exec .cli s = .next (completed .cli s { s with p := s.p &&& 0xFB#8 })) ∧
  (∀ s : State, exec .clv s = .next (completed .clv s { s with p := s.p &&& 0xBF#8 }))

/-- R170 and R186 (brk): the effect of BRK is the interrupt entry. The pushed status is P | 0x30 by C1. The Encoding
line, which the spec takes from general knowledge (D6, D7), is in OpcodeMapOfEveryMnemonic; that PC wraps at 0xFFFF is
D11. -/
def Obligations.SoftwareInterruptResult : Prop :=
  (∀ s : State, exec .brk s = .next
    { s with
      mem := ((s.mem.write (0x0100#16 + s.sp.setWidth 16) (highByte (s.pc + 2))).write
        (0x0100#16 + (s.sp - 1).setWidth 16) (lowByte (s.pc + 2))).write
        (0x0100#16 + (s.sp - 2).setWidth 16) (s.p ||| 0x30#8)
      sp := s.sp - 3
      p := s.p ||| 0x04#8
      pc := leWord (s.read 0xFFFE#16) (s.read 0xFFFF#16)
      cycles := s.cycles + (table 0x00#8).baseCycles
      pageCrossed := false }) ∧
  (∀ s : State, instrAccesses .brk s =
    [.read s.pc, .write (0x0100#16 + s.sp.setWidth 16) (highByte (s.pc + 2)),
      .write (0x0100#16 + (s.sp - 1).setWidth 16) (lowByte (s.pc + 2)),
      .write (0x0100#16 + (s.sp - 2).setWidth 16) (s.p ||| 0x30#8), .read 0xFFFE#16, .read 0xFFFF#16])

/-- 70_reset_and_hazards.md section 1: the values are the spec's (decisions D4, D5, D21); the PC of `State.reset` is
the model's choice (log entry 1), and no clause fixes it but as `Config.initialPC`. -/
def Obligations.ResetPortValues : Prop :=
  (∀ (pc : Addr) (s : State), s.applyReset pc =
    { a := 0x00#8, x := 0x00#8, y := 0x00#8, pc := pc, sp := 0xFD#8, p := 0x00#8, cycles := 0, halted := false,
      haltOpcode := 0x00#8, pageCrossed := false, mem := s.mem }) ∧
  State.reset = State.reset.applyReset Config.initialPC ∧
  (∀ a : Addr, State.reset.read a = 0x00#8)

/-- R112. -/
def Obligations.SetZNRule : Prop :=
  ∀ (v : Byte) (s : State),
    (∃ q : Byte, setZN v s = { s with p := q } ∧
      q.getLsbD 1 = decide (v = 0x00#8) ∧ q.getLsbD 7 = v.getLsbD 7 ∧
      (∀ k, k ≠ 1 → k ≠ 7 → q.getLsbD k = s.p.getLsbD k)) ∧
    (v = 0x00#8 → flagOf .zero (setZN v s).p = true ∧ flagOf .negative (setZN v s).p = false) ∧
    (0x80 ≤ v.toNat → flagOf .zero (setZN v s).p = false ∧ flagOf .negative (setZN v s).p = true) ∧
    (0 < v.toNat → v.toNat < 0x80 →
      flagOf .zero (setZN v s).p = false ∧ flagOf .negative (setZN v s).p = false)

/-- R58. -/
def Obligations.PushRule : Prop :=
  (∀ (v : Byte) (s : State), ∃ a : Addr, a.toNat = 256 + s.sp.toNat ∧
    push v s = { s with mem := s.mem.write a v, sp := s.sp - 1 }) ∧
  (∀ (v : Byte) (s : State), s.sp = 0x00#8 →
    push v s = { s with mem := s.mem.write 0x0100#16 v, sp := 0xFF#8 })

/-- 20_memory.md section 4 (R58 with R59, whose order of increment and read the spec takes from general knowledge; log
entry 14). -/
def Obligations.PopReturnsPushedByte : Prop :=
  ∀ (v : Byte) (s : State), s.mem.wf = true →
    popValue (push v s) = v ∧ (popState (push v s)).sp = s.sp

/-- R98, R99, R100. -/
def Obligations.ZeroPageAddressing : Prop :=
  ∀ (zp : Byte) (s : State),
    ((effectiveAddress (.zeroPage zp) s).toNat = zp.toNat ∧
      consumeOperand (.zeroPage zp) s = { s with pc := s.pc + 1, pageCrossed := false }) ∧
    ((effectiveAddress (.zeroPageX zp) s).toNat = (zp.toNat + s.x.toNat) % 256 ∧
      consumeOperand (.zeroPageX zp) s = { s with pc := s.pc + 1, pageCrossed := false }) ∧
    ((effectiveAddress (.zeroPageY zp) s).toNat = (zp.toNat + s.y.toNat) % 256 ∧
      consumeOperand (.zeroPageY zp) s = { s with pc := s.pc + 1, pageCrossed := false })

/-- R101, R102, R103. -/
def Obligations.AbsoluteAddressing : Prop :=
  ∀ (lo hi : Byte) (s : State),
    ((effectiveAddress (Operand.ofBytes .absolute lo hi) s).toNat = hi.toNat * 256 + lo.toNat ∧
      consumeOperand (Operand.ofBytes .absolute lo hi) s = { s with pc := s.pc + 2, pageCrossed := false }) ∧
    (∀ ea : Addr, ea.toNat = (hi.toNat * 256 + lo.toNat + s.x.toNat) % 65536 →
      effectiveAddress (Operand.ofBytes .absoluteX lo hi) s = ea ∧
      consumeOperand (Operand.ofBytes .absoluteX lo hi) s =
        { s with pc := s.pc + 2, pageCrossed := decide (hi.toNat ≠ ea.toNat / 256) }) ∧
    (∀ ea : Addr, ea.toNat = (hi.toNat * 256 + lo.toNat + s.y.toNat) % 65536 →
      effectiveAddress (Operand.ofBytes .absoluteY lo hi) s = ea ∧
      consumeOperand (Operand.ofBytes .absoluteY lo hi) s =
        { s with pc := s.pc + 2, pageCrossed := decide (hi.toNat ≠ ea.toNat / 256) })

/-- 40_execution_engine.md section 2: the pointer's high byte at (ptr + 1) mod 256 is the spec's decision D9. -/
def Obligations.IndirectAddressing : Prop :=
  ∀ (zp : Byte) (s : State) (z0 z1 : Addr),
    (z0.toNat = (zp.toNat + s.x.toNat) % 256 → z1.toNat = (zp.toNat + s.x.toNat + 1) % 256 →
      (effectiveAddress (.indirectX zp) s).toNat = (s.read z1).toNat * 256 + (s.read z0).toNat ∧
      consumeOperand (.indirectX zp) s = { s with pc := s.pc + 1, pageCrossed := false }) ∧
    (z0.toNat = zp.toNat → z1.toNat = (zp.toNat + 1) % 256 →
      (effectiveAddress (.indirectY zp) s).toNat =
        ((s.read z1).toNat * 256 + (s.read z0).toNat + s.y.toNat) % 65536 ∧
      consumeOperand (.indirectY zp) s =
        { s with
          pc := s.pc + 1
          pageCrossed := decide ((s.read z1).toNat ≠ (effectiveAddress (.indirectY zp) s).toNat / 256) })

/-- 40_execution_engine.md section 2, R96, R97, R106 (decisions D10, D25). -/
def Obligations.OperandValueByKind : Prop :=
  ∀ (o : Operand) (s : State),
    (o.mode.hasAddress = true → ∀ kind, (kind = .read ∨ kind = .readModifyWrite) →
      resolve kind o s = ⟨effectiveAddress o s, s.read (effectiveAddress o s)⟩) ∧
    (o.mode.hasAddress = true → ∀ kind, (kind = .write ∨ kind = .implied) →
      resolve kind o s = ⟨effectiveAddress o s, 0x00#8⟩) ∧
    (∀ imm kind, o = .immediate imm → (resolve kind o s).value = imm ∧ (resolve kind o s).address = s.pc) ∧
    (o = .implied → ∀ kind, resolve kind o s = ⟨0x0000#16, 0x00#8⟩)

/-- 40_execution_engine.md section 2, R107: for every access kind, stores included, by decision D8. -/
def Obligations.PageCrossingModes : Prop :=
  ∀ (o : Operand) (s : State), (consumeOperand o s).pageCrossed = true ↔
    ∃ base : Addr, base.toNat / 256 ≠ (effectiveAddress o s).toNat / 256 ∧
      (o = .absoluteX base ∨ o = .absoluteY base ∨
        ∃ zp, o = .indirectY zp ∧ base = leWord (s.read (zp.setWidth 16)) (s.read ((zp + 1).setWidth 16)))

/-- R108 and R109, with the frame of the resolver. -/
def Obligations.ResolverReportsHandlerReceives : Prop :=
  (∀ (o : Operand) (s : State), ∃ crossed : Bool,
    consumeOperand o s =
      { s with pc := s.pc + BitVec.ofNat 16 o.mode.operandBytes, pageCrossed := crossed } ∧
    (consumeOperand o s).cycles = s.cycles) ∧
  (∀ fr : FetchResult,
    (addrArg .read fr = 0x0000#16 ∧ valArg .read fr = fr.value) ∧
    (addrArg .write fr = fr.address ∧ valArg .write fr = 0x00#8) ∧
    (addrArg .readModifyWrite fr = fr.address ∧ valArg .readModifyWrite fr = fr.value) ∧
    (addrArg .implied fr = 0x0000#16 ∧ valArg .implied fr = 0x00#8))

/-- 30_encoding.md section 2, R77 (derived by the spec), R75 and R76 (decisions D3, D6). -/
def Obligations.TableInvariants : Prop :=
  (∀ op : Byte, (table op).wellFormed = true) ∧
  (opcodeRows.map (·.1)).Nodup ∧ opcodeRows.length = 70 ∧
  ((List.range 256).filter fun n => decide ((table (BitVec.ofNat 8 n)).operate ≠ .unimplemented)).length = 70 ∧
  ((List.range 256).filter fun n => decide (table (BitVec.ofNat 8 n) = sentinel)).length = 186

/-- 30_encoding.md section 2, R75, and the Encoding lines of the family files: the opcode bytes and base cycles are
the values the spec adopts from general knowledge by its decisions D6 and D7 (log entries 2 and 3). -/
def Obligations.OpcodeMapOfEveryMnemonic : Prop :=
  EncodedAs .lda
    [(0xA9#8, .immediate, 2), (0xA5#8, .zeroPage, 3), (0xB5#8, .zeroPageX, 4), (0xAD#8, .absolute, 4),
     (0xBD#8, .absoluteX, 4), (0xB9#8, .absoluteY, 4), (0xA1#8, .indirectX, 6), (0xB1#8, .indirectY, 5)] ∧
  EncodedAs .ldx
    [(0xA2#8, .immediate, 2), (0xA6#8, .zeroPage, 3), (0xB6#8, .zeroPageY, 4), (0xAE#8, .absolute, 4),
     (0xBE#8, .absoluteY, 4)] ∧
  EncodedAs .ldy
    [(0xA0#8, .immediate, 2), (0xA4#8, .zeroPage, 3), (0xB4#8, .zeroPageX, 4), (0xAC#8, .absolute, 4),
     (0xBC#8, .absoluteX, 4)] ∧
  EncodedAs .sta
    [(0x85#8, .zeroPage, 3), (0x95#8, .zeroPageX, 4), (0x8D#8, .absolute, 4), (0x9D#8, .absoluteX, 5),
     (0x99#8, .absoluteY, 5), (0x81#8, .indirectX, 6), (0x91#8, .indirectY, 6)] ∧
  EncodedAs .stx [(0x86#8, .zeroPage, 3), (0x96#8, .zeroPageY, 4), (0x8E#8, .absolute, 4)] ∧
  EncodedAs .sty [(0x84#8, .zeroPage, 3), (0x94#8, .zeroPageX, 4), (0x8C#8, .absolute, 4)] ∧
  EncodedAs .and
    [(0x29#8, .immediate, 2), (0x25#8, .zeroPage, 3), (0x35#8, .zeroPageX, 4), (0x2D#8, .absolute, 4),
     (0x3D#8, .absoluteX, 4), (0x39#8, .absoluteY, 4), (0x21#8, .indirectX, 6), (0x31#8, .indirectY, 5)] ∧
  EncodedAs .ora
    [(0x09#8, .immediate, 2), (0x05#8, .zeroPage, 3), (0x15#8, .zeroPageX, 4), (0x0D#8, .absolute, 4),
     (0x1D#8, .absoluteX, 4), (0x19#8, .absoluteY, 4), (0x01#8, .indirectX, 6), (0x11#8, .indirectY, 5)] ∧
  EncodedAs .inc [(0xE6#8, .zeroPage, 5), (0xF6#8, .zeroPageX, 6), (0xEE#8, .absolute, 6), (0xFE#8, .absoluteX, 7)] ∧
  EncodedAs .dec [(0xC6#8, .zeroPage, 5), (0xD6#8, .zeroPageX, 6), (0xCE#8, .absolute, 6), (0xDE#8, .absoluteX, 7)] ∧
  EncodedAs .inx [(0xE8#8, .implied, 2)] ∧
  EncodedAs .iny [(0xC8#8, .implied, 2)] ∧
  EncodedAs .dex [(0xCA#8, .implied, 2)] ∧
  EncodedAs .dey [(0x88#8, .implied, 2)] ∧
  EncodedAs .tax [(0xAA#8, .implied, 2)] ∧
  EncodedAs .tay [(0xA8#8, .implied, 2)] ∧
  EncodedAs .txa [(0x8A#8, .implied, 2)] ∧
  EncodedAs .tya [(0x98#8, .implied, 2)] ∧
  EncodedAs .tsx [(0xBA#8, .implied, 2)] ∧
  EncodedAs .txs [(0x9A#8, .implied, 2)] ∧
  EncodedAs .clc [(0x18#8, .implied, 2)] ∧
  EncodedAs .cld [(0xD8#8, .implied, 2)] ∧
  EncodedAs .cli [(0x58#8, .implied, 2)] ∧
  EncodedAs .clv [(0xB8#8, .implied, 2)] ∧
  EncodedAs .brk [(0x00#8, .implied, 7)]

/-- 30_encoding.md section 2, R73, R76, R80 (decision D3). -/
def Obligations.DecoderFollowsTable : Prop :=
  ∀ op b1 b2 : Byte,
    (table op = sentinel → instrAt? op b1 b2 = none) ∧
    (table op ≠ sentinel → ∃ i, instrAt? op b1 b2 = some i ∧ i.opcode = op ∧ i.operate = (table op).operate ∧
      i.operand = Operand.ofBytes (table op).mode b1 b2)

/-- 30_encoding.md section 5 and 95_test_vectors.md (byte values by decision D6, log entry 2). -/
def Obligations.DecodesWrittenOutWords : Prop :=
  decode [0xA9#8, 0x42#8] = .instr (.ldaImmediate 0x42#8) [] ∧
  decode [0xB5#8, 0xFF#8] = .instr (.ldaZeroPageX 0xFF#8) [] ∧
  decode [0xB6#8, 0x10#8] = .instr (.ldxZeroPageY 0x10#8) [] ∧
  decode [0x8D#8, 0x00#8, 0x02#8] = .instr (.staAbsolute 0x0200#16) [] ∧
  decode [0xBD#8, 0xFF#8, 0x01#8] = .instr (.ldaAbsoluteX 0x01FF#16) [] ∧
  decode [0xB9#8, 0xFF#8, 0x01#8] = .instr (.ldaAbsoluteY 0x01FF#16) [] ∧
  decode [0xA1#8, 0x20#8] = .instr (.ldaIndirectX 0x20#8) [] ∧
  decode [0xB1#8, 0x20#8] = .instr (.ldaIndirectY 0x20#8) [] ∧
  decode [0xE6#8, 0x10#8] = .instr (.incZeroPage 0x10#8) [] ∧
  decode [0xE8#8] = .instr .inx [] ∧
  decode [0x9A#8] = .instr .txs [] ∧
  decode [0x18#8] = .instr .clc [] ∧
  decode [0x00#8, 0xEA#8] = .instr .brk [] ∧
  decode [0x4C#8, 0x00#8, 0x90#8] = .unknownOpcode 0x4C#8

/-- 30_encoding.md section 5, R85 (decision D20, general knowledge). -/
def Obligations.AssemblySpellings : Prop :=
  assemblyText .inx = "INX" ∧
  assemblyText (.ldaImmediate 0x42#8) = "LDA #$42" ∧
  assemblyText (.ldaZeroPage 0x10#8) = "LDA $10" ∧
  assemblyText (.ldaZeroPageX 0xFF#8) = "LDA $FF,X" ∧
  assemblyText (.ldxZeroPageY 0x10#8) = "LDX $10,Y" ∧
  assemblyText (.staAbsolute 0x0200#16) = "STA $0200" ∧
  assemblyText (.ldaAbsoluteX 0x01FF#16) = "LDA $01FF,X" ∧
  assemblyText (.ldaAbsoluteY 0x01FF#16) = "LDA $01FF,Y" ∧
  assemblyText (.ldaIndirectX 0x20#8) = "LDA ($20,X)" ∧
  assemblyText (.ldaIndirectY 0x20#8) = "LDA ($20),Y"

/-- 30_encoding.md sections 1 and 2 (R70-R72, R75): no bit of an operand is dropped, no byte after the instruction is
touched. -/
def Obligations.DecodeEncodeRoundTrip : Prop :=
  ∀ (i : Instr) (rest : List Byte), i.wellFormed = true ∧ decode (encode i ++ rest) = .instr i rest

/-- 30_encoding.md section 1 (R70-R72, R82): no other bit of an instruction is ignored. -/
def Obligations.DecodedBytesAreTheEncoding : Prop :=
  ∀ (bytes rest : List Byte) (i : Instr), decode bytes = .instr i rest →
    (i ≠ .brk → bytes = encode i ++ rest) ∧ (i = .brk → ∃ padding : Byte, bytes = 0x00#8 :: padding :: rest)

/-- 40_execution_engine.md section 1, R90, R93. Nothing stands around `exec` in a step: it fetches, resolves, operates
and accounts. -/
def Obligations.StepRunsDecodedInstruction : Prop :=
  ∀ (s : State) (i : Instr) (rest : List Byte), s.halted = false →
    decode [s.read s.pc, s.read (s.pc + 1), s.read (s.pc + 2)] = .instr i rest → step s = exec i s

/-- The program is loaded from outside (70_reset_and_hazards.md section 2, log entry 10); fetch by
40_execution_engine.md section 1. -/
def Obligations.PlacedWordRunsNext : Prop :=
  ∀ (s : State) (nbits w : Nat) (i : Instr), s.mem.wf = true → decodeTableWord nbits w = some i →
    step (s.withFetchWord nbits w) = exec i (s.withFetchWord nbits w) ∧
    ∃ m : Memory, s.withFetchWord nbits w = { s with halted := false, mem := m } ∧ m.wf = true

/-- 60_exceptions.md section 1, R180, R182, R189: the halt is the spec's decision D3 (log entry 4). -/
def Obligations.UnknownOpcodeHalts : Prop :=
  ∀ s : State, s.halted = false → s.read s.pc ∉ opcodeRows.map (·.1) →
    step s = .next { s with halted := true, haltOpcode := s.read s.pc } ∧ busTrace s = [.read s.pc]

/-- 60_exceptions.md section 1, R181 and R91 (decisions D3, D22; log entry 4). -/
def Obligations.HaltIsSticky : Prop :=
  ∀ s : State, s.halted = true →
    (∀ k : Nat, Host.Core.run Sys2Proof.core k s = .next s) ∧ busTrace s = [] ∧
    (∀ pc : Addr, (s.applyReset pc).halted = false)

/-- 10_state.md section 6, R36, R37 (decision D3). -/
def Obligations.HaltOnlyByUnknownOpcode : Prop :=
  ∀ s t : State, step s = .next t →
    (s.halted = false → t.halted = true → s.read s.pc ∉ opcodeRows.map (·.1)) ∧
    (s.halted = true → t.halted = true) ∧
    (t.haltOpcode ≠ s.haltOpcode → s.halted = false ∧ t.halted = true)

/-- 60_exceptions.md section 2 (R183) and 40_execution_engine.md section 6 (R113, R114). -/
def Obligations.StepAlwaysCompletes : Prop :=
  (∀ s : State, ∃ t, step s = .next t) ∧
  (∀ (i : Instr) (s : State), ∃ t, exec i s = .next t ∧ t.halted = s.halted ∧ t.haltOpcode = s.haltOpcode)

/-- 40_execution_engine.md section 4, R111, with BaseCycles at the spec's default (D7, log entry 3). -/
def Obligations.CyclesPerStep : Prop :=
  ∀ s t : State, step s = .next t →
    (s.halted = true ∨ s.read s.pc ∉ opcodeRows.map (·.1) → t.cycles = s.cycles) ∧
    (∀ i, s.halted = false → fetchInstr s = some i →
      t.cycles = s.cycles + (table (s.read s.pc)).baseCycles + (if crossesPage i.operand s then 1 else 0) ∧
      s.cycles + 2 ≤ t.cycles ∧ t.cycles ≤ s.cycles + 8 ∧ t.pageCrossed = false)

/-- 10_state.md section 5, R35 (decision D4), with BaseCycles at the spec's default (D7, log entry 3). -/
def Obligations.CyclesNeverDecrease : Prop :=
  ∀ (k : Nat) (s t : State), Host.Core.run Sys2Proof.core k s = .next t →
    s.cycles ≤ t.cycles ∧ t.cycles ≤ s.cycles + 8 * k

/-- 70_reset_and_hazards.md section 1 and 10_state.md section 6 (R38). The canonical form is the model's (log entry
15). -/
def Obligations.ResetMeetsInvariant : Prop :=
  State.reset.Inv ∧ ∀ (pc : Addr) (s : State), s.mem.wf = true → (s.applyReset pc).Inv

/-- 10_state.md section 6 (R38: pageCrossed is 0 at the start and at the end of every step) and 20_memory.md section
1; the canonical form is the model's (log entry 15). -/
def Obligations.StepKeepsInvariant : Prop :=
  ∀ s t : State, s.Inv → step s = .next t → t.Inv

/-- 10_state.md section 4, R33 (derived by the spec from the instruction rules). -/
def Obligations.NeverSetFlagsStayClear : Prop :=
  (∀ (s t : State) (f : Flag), step s = .next t →
    f ∈ [Flag.carry, Flag.decimal, Flag.brk, Flag.unused, Flag.overflow] →
    flagOf f t.p = true → flagOf f s.p = true) ∧
  (∀ (k : Nat) (s t : State), s.p &&& neverSetMask = 0x00#8 →
    Host.Core.run Sys2Proof.core k s = .next t → t.p &&& neverSetMask = 0x00#8)

/-- 70_reset_and_hazards.md section 2 (R204-R206: what the host may do) with 10_state.md section 4 (R33). The first
two clauses are the invariant as a step lemma, the last two what follows of runs. That memory is canonical is the
model's (log entry 15). -/
def Obligations.ReachableStatesAreSound : Prop :=
  (State.reset.Inv ∧ State.reset.p &&& neverSetMask = 0x00#8) ∧
  (∀ (s t : State) (act : HostAction), s.Inv → s.p &&& neverSetMask = 0x00#8 → hostAct act s = .next t →
    t.Inv ∧ t.p &&& neverSetMask = 0x00#8) ∧
  (∀ s : State, Reachable s → s.Inv ∧ s.p &&& neverSetMask = 0x00#8) ∧
  (∀ acts : List HostAction, ∃ t, hostRun acts State.reset = .next t)

/-- 10_state.md section 4 (R29: I is written by BRK and CLI) and 45_flag_clear.md (R162: "I becomes 1 again only
through BRK"); bytes by D6. -/
def Obligations.InterruptDisableSetOnlyByBrk : Prop :=
  ∀ s t : State, step s = .next t →
    (flagOf .interruptDisable s.p = false → flagOf .interruptDisable t.p = true → s.read s.pc = 0x00#8) ∧
    (flagOf .interruptDisable s.p = true → flagOf .interruptDisable t.p = false → s.read s.pc = 0x58#8)

/-- 10_state.md sections 1 and 3 (R23, derived by the spec, and R28). The frame of all 70 constructors. -/
def Obligations.RegisterFrame : Prop :=
  ∀ (i : Instr) (s t : State), exec i s = .next t →
    (i.operate ∉ [Operate.lda, .and, .ora, .txa, .tya] → t.a = s.a) ∧
    (i.operate ∉ [Operate.ldx, .inx, .dex, .tax, .tsx] → t.x = s.x) ∧
    (i.operate ∉ [Operate.ldy, .iny, .dey, .tay] → t.y = s.y) ∧
    (i.operate ∉ [Operate.txs, .brk] → t.sp = s.sp) ∧
    t.halted = s.halted ∧ t.haltOpcode = s.haltOpcode

/-- R32, the frame of P for all 70 constructors. -/
def Obligations.FlagFrame : Prop :=
  ∀ (i : Instr) (s t : State), exec i s = .next t →
    (∀ v, resultOf i s = some v → flagOf .zero t.p = (v == 0x00#8) ∧ flagOf .negative t.p = v.getLsbD 7) ∧
    (resultOf i s = none → flagOf .zero t.p = flagOf .zero s.p ∧ flagOf .negative t.p = flagOf .negative s.p) ∧
    (i.operate ≠ .clc → flagOf .carry t.p = flagOf .carry s.p) ∧
    (i.operate ≠ .cld → flagOf .decimal t.p = flagOf .decimal s.p) ∧
    (i.operate ≠ .clv → flagOf .overflow t.p = flagOf .overflow s.p) ∧
    (i.operate ≠ .cli → i.operate ≠ .brk → flagOf .interruptDisable t.p = flagOf .interruptDisable s.p) ∧
    flagOf .brk t.p = flagOf .brk s.p ∧ flagOf .unused t.p = flagOf .unused s.p

/-- 20_memory.md sections 1 and 5 (R51, R52, R61: no access beyond those of the order, decision D10). The frame of
memory for all 70 constructors. -/
def Obligations.MemoryFrame : Prop :=
  ∀ (i : Instr) (s t : State), exec i s = .next t →
    (∀ v, storedByte i s = some v → s.mem.wf = true → t.read (effectiveAddress i.operand s) = v) ∧
    (∀ (v : Byte) (a : Addr), storedByte i s = some v → a ≠ effectiveAddress i.operand s → t.read a = s.read a) ∧
    (i = .brk → ∀ a : Addr, a ≠ stackAddr s.sp → a ≠ stackAddr (s.sp - 1) → a ≠ stackAddr (s.sp - 2) →
      t.read a = s.read a) ∧
    (storedByte i s = none → i ≠ .brk → ∀ a : Addr, t.read a = s.read a)

/-- 41_load_store.md, R126 (derived by the spec from R120, R123 and R51). -/
def Obligations.StoreThenLoadRoundTrip : Prop :=
  ∀ (i j : Instr) (s t u : State), s.mem.wf = true → i.operate = .sta → j.operate = .lda →
    j.operand.mode ≠ .immediate → exec i s = .next t →
    effectiveAddress j.operand t = effectiveAddress i.operand s → exec j t = .next u →
    u.a = s.a ∧ u.p = zn s.a s.p ∧ u.mem = t.mem

/-- 20_memory.md section 5, R60, R61 (decision D10) and 00_scope.md section 5 (R7); the trace is a second description
of the step (log entry 11). -/
def Obligations.BusTraceIsTheMemoryEffect : Prop :=
  ∀ s t : State, step s = .next t → t.mem = replay s.mem (busTrace s)

/-- 20_memory.md section 5, R60 and R61 (decision D10; log entries 11 and 21), and 70_reset_and_hazards.md section 3
(R209). The pointer addresses are D9's (log entry 18), the pushed status C1's (log entry 20). -/
def Obligations.AccessOrder : Prop :=
  ∀ s : State,
    (s.halted = true → busTrace s = []) ∧
    (s.halted = false → fetchInstr s = none → busTrace s = [.read s.pc]) ∧
    (∀ i, s.halted = false → fetchInstr s = some i → i ≠ .brk →
      busTrace s =
        (s.pc :: (operandAddrs i.operand s.pc ++ pointerAddrs i.operand s ++ valueAddrs i s)).map Access.read ++
          (storedByte i s).toList.map (Access.write (effectiveAddress i.operand s))) ∧
    (s.halted = false → fetchInstr s = some .brk →
      busTrace s = [.read s.pc, .write (stackAddr s.sp) (highByte (s.pc + 2)),
        .write (stackAddr (s.sp - 1)) (lowByte (s.pc + 2)), .write (stackAddr (s.sp - 2)) (s.p ||| 0x30#8),
        .read 0xFFFE#16, .read 0xFFFF#16])

/-- 20_memory.md section 6, R64 (derived by the spec, decision D15; the halt is D3, log entry 4). What a step writes
is read off its access list (log entry 11), so BRK's three pushes are covered as well as the stores; canonical memory
is log entry 15. -/
def Obligations.FetchSeesEarlierStore : Prop :=
  ∀ (s t u : State) (a : Addr) (v : Byte), s.mem.wf = true → step s = .next t → Access.write a v ∈ busTrace s →
    u.mem = t.mem → u.halted = false →
    u.read a = v ∧
    (u.pc = a → v ∉ opcodeRows.map (·.1) → step u = .next { u with halted := true, haltOpcode := v }) ∧
    (u.pc = a → v ∈ opcodeRows.map (·.1) →
      ∃ j w, j.opcode = v ∧ step u = exec j u ∧ step u = .next w ∧ w.halted = false) ∧
    (∀ j, fetchInstr u = some j →
      (u.pc + 1 = a → 1 ≤ j.operand.mode.operandBytes → j.operand.bytes[0]? = some v) ∧
      (u.pc + 2 = a → j.operand.mode.operandBytes = 2 → j.operand.bytes[1]? = some v) ∧
      (j.operand.mode.hasAddress = true → effectiveAddress j.operand u = a → operandByte j.operand u = v))

/-- 10_state.md section 4 (R29, derived by the spec, and R34). -/
def Obligations.StatusNeverSteersExecution : Prop :=
  (∀ (i : Instr) (s t : State) (q : Byte), i ≠ .brk → exec i s = .next t →
    ∃ q' : Byte, exec i { s with p := q } = .next { t with p := q' }) ∧
  (∀ (s t : State) (q : Byte), exec .brk s = .next t →
    ∃ (q' : Byte) (m : Memory), exec .brk { s with p := q } = .next { t with p := q', mem := m } ∧
      ∀ a : Addr, a ≠ stackAddr (s.sp - 2) → m.read a = t.read a)

/-- 10_state.md sections 5 and 6, R35 ("never read by operations") and R37 ("no step reads it") (decisions D3, D4,
D19; log entries 4 and 16). -/
def Obligations.CountersNeverSteerExecution : Prop :=
  ∀ (s : State) (n : Nat) (op : Byte) (s' : State), s' = { s with cycles := s.cycles + n, haltOpcode := op } →
    fetchInstr s' = fetchInstr s ∧ busTrace s' = busTrace s ∧
    (∀ t, step s = .next t →
      (s.halted = false → t.halted = true → step s' = .next { t with cycles := t.cycles + n }) ∧
      (s.halted = true ∨ t.halted = false → step s' = .next { t with cycles := t.cycles + n, haltOpcode := op })) ∧
    (∀ i t, exec i s = .next t → exec i s' = .next { t with cycles := t.cycles + n, haltOpcode := op })

/-- R25. -/
def Obligations.PcAtStepEnd : Prop :=
  ∀ s t : State, s.halted = false → step s = .next t →
    (∃ i, fetchInstr s = some i ∧ i ≠ .brk ∧
      t.pc.toNat = (s.pc.toNat + (encode i).length) % 65536) ∨
    (fetchInstr s = some .brk ∧ t.pc.toNat = (s.read 0xFFFF#16).toNat * 256 + (s.read 0xFFFE#16).toNat) ∨
    (fetchInstr s = none ∧ t.pc = s.pc)

/-- R51, over memories in the canonical form (log entry 15), which every operation keeps. -/
def Obligations.MemoryReadAfterWrite : Prop :=
  (∀ (m : Memory) (a : Addr) (v : Byte), m.wf = true →
    ∀ b : Addr, (m.write a v).read b = if b = a then v else m.read b) ∧
  (∀ a : Addr, Memory.read [] a = 0x00#8)

/-- 20_memory.md section 1 (R50, R51): the memory is the map from addresses to bytes; the canonical form is the
model's (log entry 15). -/
def Obligations.MemoryReadsDetermineIt : Prop :=
  (∀ m m' : Memory, m.wf = true → m'.wf = true → (∀ a : Addr, m.read a = m'.read a) → m = m') ∧
  (∀ (m : Memory) (a : Addr) (v : Byte), m.wf = true →
    (m.write a v).wf = true ∧ (m.write a v).write a (m.read a) = m)

/-- 60_exceptions.md sections 4 and 5, R188 and R191 (both derived by the spec). The pushed status is C1's (log entry
20); canonical memory is log entry 15. -/
def Obligations.BrkNestingWrapsStackPage : Prop :=
  (∀ s : State, ∃ t, exec .brk s = .next t ∧
    t.sp = (pushAll [highByte (s.pc + 2), lowByte (s.pc + 2), s.p ||| 0x30#8] s).sp ∧
    t.mem = (pushAll [highByte (s.pc + 2), lowByte (s.pc + 2), s.p ||| 0x30#8] s).mem) ∧
  (∀ (n : Nat) (s u : State), NestedBrk n s u → u.sp = s.sp - BitVec.ofNat 8 (3 * n)) ∧
  (∀ s u : State, NestedBrk 85 s u → u.mem.wf = true →
    ∃ t, exec .brk u = .next t ∧ t.read (stackAddr s.sp) = lowByte (u.pc + 2)) ∧
  (∀ (vs : List Byte) (s : State),
    (∃ m : Memory, pushAll vs s = { s with sp := s.sp - BitVec.ofNat 8 vs.length, mem := m }) ∧
    (∀ a : Addr, a.toNat < 0x0100 ∨ 0x01FF < a.toNat → (pushAll vs s).read a = s.read a) ∧
    (vs.length = 256 → ∀ v w : Byte, ∃ m m' : Memory,
      (push v s).mem = m ∧ m = s.mem.write (stackAddr s.sp) v ∧
      (push w (pushAll vs s)).mem = m' ∧ m' = (pushAll vs s).mem.write (stackAddr s.sp) w))

/-- 00_scope.md section 5 (R9, R10) and 70_reset_and_hazards.md section 2 (R203, R204; decisions D2, D18). -/
def Obligations.HostWritesOnlyThroughReset : Prop :=
  ∀ (s t : State),
    (∀ (a : Addr) (v : Byte), hostAct (.writeMemory a v) s = .next t →
      observe t = observe s ∧ t.pageCrossed = s.pageCrossed ∧ (s.mem.wf = true → t.mem.wf = true ∧ t.read a = v) ∧
      ∀ b : Addr, b ≠ a → t.read b = s.read b) ∧
    (∀ pc : Addr, hostAct (.reset pc) s = .next t → t.mem = s.mem ∧ t.pc = pc ∧ t.halted = false) ∧
    hostAct .step s = step s

/-- 60_exceptions.md sections 2 and 3, R183 (decision D3) and R185 (derived by the spec). -/
def Obligations.EventFixedByOpcode : Prop :=
  ∀ s t : State, s.halted = false → step s = .next t →
    (eventOfOpcode (s.read s.pc) = .softwareInterrupt ↔ fetchInstr s = some .brk) ∧
    (∀ op, eventOfOpcode (s.read s.pc) = .unknownOpcode op ↔ t.halted = true ∧ op = s.read s.pc) ∧
    (eventOfOpcode (s.read s.pc) = .none ↔ ∃ i, fetchInstr s = some i ∧ i ≠ .brk)
end

