-- ==== Sys2Proof/Laws/Decode.lean ====
section
/-! SUPPORT. The decoder, the table and the encoder agree on every constructor of `Instr`. -/

namespace Sys2Proof

/-- The pairing of a constructor names it again. -/
theorem ofPairing_self (i : Instr) : Instr.ofPairing? i.operate i.operand = some i := by
  cases i <;> rfl

/-- The only pairings that name an instruction are its own. -/
theorem ofPairing_eq_some {f : Operate} {o : Operand} {i : Instr} (h : Instr.ofPairing? f o = some i) :
    i.operate = f ∧ i.operand = o := by
  cases f <;> cases o <;> first
    | (obtain rfl := Option.some.inj h; exact ⟨rfl, rfl⟩)
    | exact nomatch h

/-- A pairing R75 has names an instruction. -/
theorem exists_ofPairing {f : Operate} {o : Operand} (h : pairingWellFormed f o = true) :
    ∃ i, Instr.ofPairing? f o = some i := by
  cases f <;> cases o <;> first
    | exact ⟨_, rfl⟩
    | exact absurd h (by simp [pairingWellFormed, Operate.modes, Operand.mode])

@[simp] theorem operate_table_opcode (i : Instr) : (table i.opcode).operate = i.operate := by
  cases i <;> rfl

@[simp] theorem mode_table_opcode (i : Instr) : (table i.opcode).mode = i.operand.mode := by
  cases i <;> rfl

@[simp] theorem accessKind_table_opcode (i : Instr) : (table i.opcode).accessKind = i.operate.accessKind := by
  cases i <;> rfl

theorem length_table_opcode (i : Instr) :
    (table i.opcode).length = if i.operate = .brk then 2 else 1 + i.operand.mode.operandBytes := by
  cases i <;> rfl

@[simp] theorem mode_ofBytes (m : AddrMode) (b1 b2 : Byte) : (Operand.ofBytes m b1 b2).mode = m := by
  cases m <;> rfl

/-- An instruction the decoder reads has the handler and mode of its opcode's row, and the operand of its bytes. -/
theorem instrAt_eq_some {op b1 b2 : Byte} {i : Instr} (h : instrAt? op b1 b2 = some i) :
    i.operate = (table op).operate ∧ i.operand = Operand.ofBytes (table op).mode b1 b2 :=
  ofPairing_eq_some h

/-- A 16-bit quantity as a number: the high byte counts 256 (R54). -/
theorem leWord_toNat (lo hi : Byte) : (leWord lo hi).toNat = hi.toNat * 256 + lo.toNat := by
  have := lo.isLt
  show (BitVec.append hi lo).toNat = _
  rw [show BitVec.append hi lo = hi ++ lo from rfl, BitVec.toNat_append, ← Nat.shiftLeft_add_eq_or_of_lt this,
    Nat.shiftLeft_eq]

theorem lowByte_toNat (w : Addr) : (lowByte w).toNat = w.toNat % 256 := by
  simp [lowByte]

theorem highByte_toNat (w : Addr) : (highByte w).toNat = w.toNat / 256 := by
  have := w.isLt
  simp only [highByte, BitVec.toNat_setWidth, BitVec.toNat_ushiftRight, Nat.shiftRight_eq_div_pow]
  omega

theorem zext16_toNat (b : Byte) : (zext16 b).toNat = b.toNat := by
  have := b.isLt
  simp only [zext16, BitVec.toNat_setWidth]
  omega

/-- The two bytes of an address, put together again. -/
@[simp] theorem leWord_lowByte_highByte (w : Addr) : leWord (lowByte w) (highByte w) = w := by
  apply BitVec.eq_of_toNat_eq
  rw [leWord_toNat, lowByte_toNat, highByte_toNat]
  omega

@[simp] theorem lowByte_leWord (lo hi : Byte) : lowByte (leWord lo hi) = lo := by
  have := lo.isLt
  apply BitVec.eq_of_toNat_eq
  rw [lowByte_toNat, leWord_toNat]
  omega

@[simp] theorem highByte_leWord (lo hi : Byte) : highByte (leWord lo hi) = hi := by
  have := lo.isLt
  apply BitVec.eq_of_toNat_eq
  rw [highByte_toNat, leWord_toNat]
  omega

/-- The operand of the bytes an operand is laid down as. -/
theorem ofBytes_bytes (o : Operand) (rest : List Byte) :
    Operand.ofBytes o.mode ((o.bytes ++ rest).headD 0) ((o.bytes ++ rest).tail.headD 0) = o := by
  cases o <;> simp [Operand.mode, Operand.bytes, Operand.ofBytes]

/-- A byte has its row in `opcodeRows`, or is none of the listed bytes and has the sentinel (R73, R76). -/
theorem table_cases (op : Byte) :
    (op, table op) ∈ opcodeRows ∨ (op ∉ opcodeRows.map (·.1) ∧ table op = sentinel) := by
  unfold table
  cases h : opcodeRows.find? (fun r => r.1 == op) with
  | some r =>
    have h1 : r.1 = op := by simpa using List.find?_some h
    exact .inl (h1 ▸ List.mem_of_find?_eq_some h)
  | none =>
    refine .inr ⟨fun hm => ?_, rfl⟩
    obtain ⟨r, hr, rfl⟩ := List.mem_map.mp hm
    simpa using List.find?_eq_none.mp h r hr

theorem operate_row : ∀ r ∈ opcodeRows, r.2.operate ≠ .unimplemented := by decide +kernel

theorem modes_row : ∀ r ∈ opcodeRows, r.2.operate.modes.contains r.2.mode = true := by decide +kernel

theorem opcode_row : ∀ r ∈ opcodeRows,
    (Instr.ofPairing? r.2.operate (Operand.ofBytes r.2.mode 0 0)).map Instr.opcode = some r.1 := by decide +kernel

theorem opcode_ofPairing {f : Operate} {o : Operand} {i : Instr} (h : Instr.ofPairing? f o = some i) :
    (Instr.ofPairing? f (Operand.ofBytes o.mode 0 0)).map Instr.opcode = some i.opcode := by
  cases f <;> cases o <;> first
    | (obtain rfl := Option.some.inj h; rfl)
    | exact nomatch h

/-- The listed bytes are those without the sentinel. -/
theorem mem_opcodeRows_iff (op : Byte) : op ∈ opcodeRows.map (·.1) ↔ table op ≠ sentinel := by
  rcases table_cases op with h | h
  · refine ⟨fun _ hs => ?_, fun _ => List.mem_map.mpr ⟨_, h, rfl⟩⟩
    exact operate_row _ h (by rw [hs]; rfl)
  · exact ⟨fun hm => absurd hm h.1, fun hs => absurd h.2 hs⟩

/-- Only the sentinel is unimplemented (R77). -/
theorem operate_unimplemented_iff (op : Byte) : (table op).operate = .unimplemented ↔ table op = sentinel := by
  rcases table_cases op with h | h
  · exact ⟨fun hu => absurd hu (operate_row _ h), fun hs => by rw [hs]; rfl⟩
  · exact ⟨fun _ => h.2, fun hs => by rw [hs]; rfl⟩

/-- A listed byte decodes, whatever the bytes after it. -/
theorem exists_instrAt {op : Byte} (h : table op ≠ sentinel) (b1 b2 : Byte) : ∃ i, instrAt? op b1 b2 = some i := by
  have hr : (op, table op) ∈ opcodeRows := (table_cases op).resolve_right fun h' => h h'.2
  refine exists_ofPairing (Bool.and_eq_true_iff.mpr ⟨bne_iff_ne.mpr (operate_row _ hr), ?_⟩)
  rw [mode_ofBytes]
  exact modes_row _ hr

/-- The decoder refuses exactly the sentinel bytes (R76). -/
theorem instrAt_eq_none_iff (op b1 b2 : Byte) : instrAt? op b1 b2 = none ↔ table op = sentinel := by
  constructor
  · intro h
    by_contra hs
    obtain ⟨i, hi⟩ := exists_instrAt hs b1 b2
    exact absurd (hi.symm.trans h) (Option.some_ne_none i)
  · intro h
    rw [instrAt?, h]
    rfl

/-- The encoder's opcode byte of a decoded instruction is the byte it was decoded from. -/
theorem opcode_of_instrAt {op b1 b2 : Byte} {i : Instr} (h : instrAt? op b1 b2 = some i) : i.opcode = op := by
  have hs : table op ≠ sentinel := fun hs =>
    absurd (h.symm.trans ((instrAt_eq_none_iff op b1 b2).mpr hs)) (Option.some_ne_none i)
  have hr := opcode_row _ ((table_cases op).resolve_right fun h' => hs h'.2)
  have hi := opcode_ofPairing h
  rw [mode_ofBytes] at hi
  exact Option.some.inj (hi.symm.trans hr)

/-- The encoding is as long as the row says (R78). -/
theorem length_encode (i : Instr) : (encode i).length = (table i.opcode).length := by
  have ho : ∀ o : Operand, o.bytes.length = o.mode.operandBytes := by intro o; cases o <;> rfl
  rw [length_table_opcode, encode, List.length_cons, List.length_append, ho]
  cases i <;> rfl

/-- `decode` on a list with a first byte. -/
theorem decode_cons (op : Byte) (rest : List Byte) :
    decode (op :: rest) =
      match instrAt? op (rest.headD 0) (rest.tail.headD 0) with
      | none => .unknownOpcode op
      | some i =>
        if (table op).length ≤ rest.length + 1 then .instr i (rest.drop ((table op).length - 1))
        else .truncated := rfl

end Sys2Proof
end

