-- ==== Sys2Proof/Laws/State.lean ====
section
/-! SUPPORT. What each single-field write does to each field of the state, and what reset leaves in each. -/

namespace Sys2Proof.Machine

@[simp] theorem State.a_setA (v : Byte) (s : State) : (s.setA v).a = v := rfl
@[simp] theorem State.x_setA (v : Byte) (s : State) : (s.setA v).x = s.x := rfl
@[simp] theorem State.y_setA (v : Byte) (s : State) : (s.setA v).y = s.y := rfl
@[simp] theorem State.pc_setA (v : Byte) (s : State) : (s.setA v).pc = s.pc := rfl
@[simp] theorem State.sp_setA (v : Byte) (s : State) : (s.setA v).sp = s.sp := rfl
@[simp] theorem State.p_setA (v : Byte) (s : State) : (s.setA v).p = s.p := rfl
@[simp] theorem State.cycles_setA (v : Byte) (s : State) : (s.setA v).cycles = s.cycles := rfl
@[simp] theorem State.halted_setA (v : Byte) (s : State) : (s.setA v).halted = s.halted := rfl
@[simp] theorem State.haltOpcode_setA (v : Byte) (s : State) : (s.setA v).haltOpcode = s.haltOpcode := rfl
@[simp] theorem State.pageCrossed_setA (v : Byte) (s : State) : (s.setA v).pageCrossed = s.pageCrossed := rfl
@[simp] theorem State.mem_setA (v : Byte) (s : State) : (s.setA v).mem = s.mem := rfl

@[simp] theorem State.a_setX (v : Byte) (s : State) : (s.setX v).a = s.a := rfl
@[simp] theorem State.x_setX (v : Byte) (s : State) : (s.setX v).x = v := rfl
@[simp] theorem State.y_setX (v : Byte) (s : State) : (s.setX v).y = s.y := rfl
@[simp] theorem State.pc_setX (v : Byte) (s : State) : (s.setX v).pc = s.pc := rfl
@[simp] theorem State.sp_setX (v : Byte) (s : State) : (s.setX v).sp = s.sp := rfl
@[simp] theorem State.p_setX (v : Byte) (s : State) : (s.setX v).p = s.p := rfl
@[simp] theorem State.cycles_setX (v : Byte) (s : State) : (s.setX v).cycles = s.cycles := rfl
@[simp] theorem State.halted_setX (v : Byte) (s : State) : (s.setX v).halted = s.halted := rfl
@[simp] theorem State.haltOpcode_setX (v : Byte) (s : State) : (s.setX v).haltOpcode = s.haltOpcode := rfl
@[simp] theorem State.pageCrossed_setX (v : Byte) (s : State) : (s.setX v).pageCrossed = s.pageCrossed := rfl
@[simp] theorem State.mem_setX (v : Byte) (s : State) : (s.setX v).mem = s.mem := rfl

@[simp] theorem State.a_setY (v : Byte) (s : State) : (s.setY v).a = s.a := rfl
@[simp] theorem State.x_setY (v : Byte) (s : State) : (s.setY v).x = s.x := rfl
@[simp] theorem State.y_setY (v : Byte) (s : State) : (s.setY v).y = v := rfl
@[simp] theorem State.pc_setY (v : Byte) (s : State) : (s.setY v).pc = s.pc := rfl
@[simp] theorem State.sp_setY (v : Byte) (s : State) : (s.setY v).sp = s.sp := rfl
@[simp] theorem State.p_setY (v : Byte) (s : State) : (s.setY v).p = s.p := rfl
@[simp] theorem State.cycles_setY (v : Byte) (s : State) : (s.setY v).cycles = s.cycles := rfl
@[simp] theorem State.halted_setY (v : Byte) (s : State) : (s.setY v).halted = s.halted := rfl
@[simp] theorem State.haltOpcode_setY (v : Byte) (s : State) : (s.setY v).haltOpcode = s.haltOpcode := rfl
@[simp] theorem State.pageCrossed_setY (v : Byte) (s : State) : (s.setY v).pageCrossed = s.pageCrossed := rfl
@[simp] theorem State.mem_setY (v : Byte) (s : State) : (s.setY v).mem = s.mem := rfl

@[simp] theorem State.a_setPc (v : Addr) (s : State) : (s.setPc v).a = s.a := rfl
@[simp] theorem State.x_setPc (v : Addr) (s : State) : (s.setPc v).x = s.x := rfl
@[simp] theorem State.y_setPc (v : Addr) (s : State) : (s.setPc v).y = s.y := rfl
@[simp] theorem State.pc_setPc (v : Addr) (s : State) : (s.setPc v).pc = v := rfl
@[simp] theorem State.sp_setPc (v : Addr) (s : State) : (s.setPc v).sp = s.sp := rfl
@[simp] theorem State.p_setPc (v : Addr) (s : State) : (s.setPc v).p = s.p := rfl
@[simp] theorem State.cycles_setPc (v : Addr) (s : State) : (s.setPc v).cycles = s.cycles := rfl
@[simp] theorem State.halted_setPc (v : Addr) (s : State) : (s.setPc v).halted = s.halted := rfl
@[simp] theorem State.haltOpcode_setPc (v : Addr) (s : State) : (s.setPc v).haltOpcode = s.haltOpcode := rfl
@[simp] theorem State.pageCrossed_setPc (v : Addr) (s : State) : (s.setPc v).pageCrossed = s.pageCrossed := rfl
@[simp] theorem State.mem_setPc (v : Addr) (s : State) : (s.setPc v).mem = s.mem := rfl

@[simp] theorem State.a_setSp (v : Byte) (s : State) : (s.setSp v).a = s.a := rfl
@[simp] theorem State.x_setSp (v : Byte) (s : State) : (s.setSp v).x = s.x := rfl
@[simp] theorem State.y_setSp (v : Byte) (s : State) : (s.setSp v).y = s.y := rfl
@[simp] theorem State.pc_setSp (v : Byte) (s : State) : (s.setSp v).pc = s.pc := rfl
@[simp] theorem State.sp_setSp (v : Byte) (s : State) : (s.setSp v).sp = v := rfl
@[simp] theorem State.p_setSp (v : Byte) (s : State) : (s.setSp v).p = s.p := rfl
@[simp] theorem State.cycles_setSp (v : Byte) (s : State) : (s.setSp v).cycles = s.cycles := rfl
@[simp] theorem State.halted_setSp (v : Byte) (s : State) : (s.setSp v).halted = s.halted := rfl
@[simp] theorem State.haltOpcode_setSp (v : Byte) (s : State) : (s.setSp v).haltOpcode = s.haltOpcode := rfl
@[simp] theorem State.pageCrossed_setSp (v : Byte) (s : State) : (s.setSp v).pageCrossed = s.pageCrossed := rfl
@[simp] theorem State.mem_setSp (v : Byte) (s : State) : (s.setSp v).mem = s.mem := rfl

@[simp] theorem State.a_setP (v : Byte) (s : State) : (s.setP v).a = s.a := rfl
@[simp] theorem State.x_setP (v : Byte) (s : State) : (s.setP v).x = s.x := rfl
@[simp] theorem State.y_setP (v : Byte) (s : State) : (s.setP v).y = s.y := rfl
@[simp] theorem State.pc_setP (v : Byte) (s : State) : (s.setP v).pc = s.pc := rfl
@[simp] theorem State.sp_setP (v : Byte) (s : State) : (s.setP v).sp = s.sp := rfl
@[simp] theorem State.p_setP (v : Byte) (s : State) : (s.setP v).p = v := rfl
@[simp] theorem State.cycles_setP (v : Byte) (s : State) : (s.setP v).cycles = s.cycles := rfl
@[simp] theorem State.halted_setP (v : Byte) (s : State) : (s.setP v).halted = s.halted := rfl
@[simp] theorem State.haltOpcode_setP (v : Byte) (s : State) : (s.setP v).haltOpcode = s.haltOpcode := rfl
@[simp] theorem State.pageCrossed_setP (v : Byte) (s : State) : (s.setP v).pageCrossed = s.pageCrossed := rfl
@[simp] theorem State.mem_setP (v : Byte) (s : State) : (s.setP v).mem = s.mem := rfl

@[simp] theorem State.a_setCycles (v : Nat) (s : State) : (s.setCycles v).a = s.a := rfl
@[simp] theorem State.x_setCycles (v : Nat) (s : State) : (s.setCycles v).x = s.x := rfl
@[simp] theorem State.y_setCycles (v : Nat) (s : State) : (s.setCycles v).y = s.y := rfl
@[simp] theorem State.pc_setCycles (v : Nat) (s : State) : (s.setCycles v).pc = s.pc := rfl
@[simp] theorem State.sp_setCycles (v : Nat) (s : State) : (s.setCycles v).sp = s.sp := rfl
@[simp] theorem State.p_setCycles (v : Nat) (s : State) : (s.setCycles v).p = s.p := rfl
@[simp] theorem State.cycles_setCycles (v : Nat) (s : State) : (s.setCycles v).cycles = v := rfl
@[simp] theorem State.halted_setCycles (v : Nat) (s : State) : (s.setCycles v).halted = s.halted := rfl
@[simp] theorem State.haltOpcode_setCycles (v : Nat) (s : State) : (s.setCycles v).haltOpcode = s.haltOpcode := rfl
@[simp] theorem State.pageCrossed_setCycles (v : Nat) (s : State) : (s.setCycles v).pageCrossed = s.pageCrossed := rfl
@[simp] theorem State.mem_setCycles (v : Nat) (s : State) : (s.setCycles v).mem = s.mem := rfl

@[simp] theorem State.a_setHalted (v : Bool) (s : State) : (s.setHalted v).a = s.a := rfl
@[simp] theorem State.x_setHalted (v : Bool) (s : State) : (s.setHalted v).x = s.x := rfl
@[simp] theorem State.y_setHalted (v : Bool) (s : State) : (s.setHalted v).y = s.y := rfl
@[simp] theorem State.pc_setHalted (v : Bool) (s : State) : (s.setHalted v).pc = s.pc := rfl
@[simp] theorem State.sp_setHalted (v : Bool) (s : State) : (s.setHalted v).sp = s.sp := rfl
@[simp] theorem State.p_setHalted (v : Bool) (s : State) : (s.setHalted v).p = s.p := rfl
@[simp] theorem State.cycles_setHalted (v : Bool) (s : State) : (s.setHalted v).cycles = s.cycles := rfl
@[simp] theorem State.halted_setHalted (v : Bool) (s : State) : (s.setHalted v).halted = v := rfl
@[simp] theorem State.haltOpcode_setHalted (v : Bool) (s : State) : (s.setHalted v).haltOpcode = s.haltOpcode := rfl
@[simp] theorem State.pageCrossed_setHalted (v : Bool) (s : State) : (s.setHalted v).pageCrossed = s.pageCrossed := rfl
@[simp] theorem State.mem_setHalted (v : Bool) (s : State) : (s.setHalted v).mem = s.mem := rfl

@[simp] theorem State.a_setHaltOpcode (v : Byte) (s : State) : (s.setHaltOpcode v).a = s.a := rfl
@[simp] theorem State.x_setHaltOpcode (v : Byte) (s : State) : (s.setHaltOpcode v).x = s.x := rfl
@[simp] theorem State.y_setHaltOpcode (v : Byte) (s : State) : (s.setHaltOpcode v).y = s.y := rfl
@[simp] theorem State.pc_setHaltOpcode (v : Byte) (s : State) : (s.setHaltOpcode v).pc = s.pc := rfl
@[simp] theorem State.sp_setHaltOpcode (v : Byte) (s : State) : (s.setHaltOpcode v).sp = s.sp := rfl
@[simp] theorem State.p_setHaltOpcode (v : Byte) (s : State) : (s.setHaltOpcode v).p = s.p := rfl
@[simp] theorem State.cycles_setHaltOpcode (v : Byte) (s : State) : (s.setHaltOpcode v).cycles = s.cycles := rfl
@[simp] theorem State.halted_setHaltOpcode (v : Byte) (s : State) : (s.setHaltOpcode v).halted = s.halted := rfl
@[simp] theorem State.haltOpcode_setHaltOpcode (v : Byte) (s : State) : (s.setHaltOpcode v).haltOpcode = v := rfl
@[simp] theorem State.pageCrossed_setHaltOpcode (v : Byte) (s : State) : (s.setHaltOpcode v).pageCrossed = s.pageCrossed := rfl
@[simp] theorem State.mem_setHaltOpcode (v : Byte) (s : State) : (s.setHaltOpcode v).mem = s.mem := rfl

@[simp] theorem State.a_setPageCrossed (v : Bool) (s : State) : (s.setPageCrossed v).a = s.a := rfl
@[simp] theorem State.x_setPageCrossed (v : Bool) (s : State) : (s.setPageCrossed v).x = s.x := rfl
@[simp] theorem State.y_setPageCrossed (v : Bool) (s : State) : (s.setPageCrossed v).y = s.y := rfl
@[simp] theorem State.pc_setPageCrossed (v : Bool) (s : State) : (s.setPageCrossed v).pc = s.pc := rfl
@[simp] theorem State.sp_setPageCrossed (v : Bool) (s : State) : (s.setPageCrossed v).sp = s.sp := rfl
@[simp] theorem State.p_setPageCrossed (v : Bool) (s : State) : (s.setPageCrossed v).p = s.p := rfl
@[simp] theorem State.cycles_setPageCrossed (v : Bool) (s : State) : (s.setPageCrossed v).cycles = s.cycles := rfl
@[simp] theorem State.halted_setPageCrossed (v : Bool) (s : State) : (s.setPageCrossed v).halted = s.halted := rfl
@[simp] theorem State.haltOpcode_setPageCrossed (v : Bool) (s : State) : (s.setPageCrossed v).haltOpcode = s.haltOpcode := rfl
@[simp] theorem State.pageCrossed_setPageCrossed (v : Bool) (s : State) : (s.setPageCrossed v).pageCrossed = v := rfl
@[simp] theorem State.mem_setPageCrossed (v : Bool) (s : State) : (s.setPageCrossed v).mem = s.mem := rfl

@[simp] theorem State.a_setMem (v : Memory) (s : State) : (s.setMem v).a = s.a := rfl
@[simp] theorem State.x_setMem (v : Memory) (s : State) : (s.setMem v).x = s.x := rfl
@[simp] theorem State.y_setMem (v : Memory) (s : State) : (s.setMem v).y = s.y := rfl
@[simp] theorem State.pc_setMem (v : Memory) (s : State) : (s.setMem v).pc = s.pc := rfl
@[simp] theorem State.sp_setMem (v : Memory) (s : State) : (s.setMem v).sp = s.sp := rfl
@[simp] theorem State.p_setMem (v : Memory) (s : State) : (s.setMem v).p = s.p := rfl
@[simp] theorem State.cycles_setMem (v : Memory) (s : State) : (s.setMem v).cycles = s.cycles := rfl
@[simp] theorem State.halted_setMem (v : Memory) (s : State) : (s.setMem v).halted = s.halted := rfl
@[simp] theorem State.haltOpcode_setMem (v : Memory) (s : State) : (s.setMem v).haltOpcode = s.haltOpcode := rfl
@[simp] theorem State.pageCrossed_setMem (v : Memory) (s : State) : (s.setMem v).pageCrossed = s.pageCrossed := rfl
@[simp] theorem State.mem_setMem (v : Memory) (s : State) : (s.setMem v).mem = v := rfl

/-! ## Reset (R200) -/

@[simp] theorem State.a_resetWith (pc : Addr) (mem : Memory) : (State.resetWith pc mem).a = 0x00#8 := rfl
@[simp] theorem State.x_resetWith (pc : Addr) (mem : Memory) : (State.resetWith pc mem).x = 0x00#8 := rfl
@[simp] theorem State.y_resetWith (pc : Addr) (mem : Memory) : (State.resetWith pc mem).y = 0x00#8 := rfl
@[simp] theorem State.pc_resetWith (pc : Addr) (mem : Memory) : (State.resetWith pc mem).pc = pc := rfl
@[simp] theorem State.sp_resetWith (pc : Addr) (mem : Memory) : (State.resetWith pc mem).sp = 0xFD#8 := rfl
@[simp] theorem State.p_resetWith (pc : Addr) (mem : Memory) : (State.resetWith pc mem).p = 0x00#8 := rfl
@[simp] theorem State.cycles_resetWith (pc : Addr) (mem : Memory) : (State.resetWith pc mem).cycles = 0 := rfl
@[simp] theorem State.halted_resetWith (pc : Addr) (mem : Memory) : (State.resetWith pc mem).halted = false := rfl
@[simp] theorem State.haltOpcode_resetWith (pc : Addr) (mem : Memory) : (State.resetWith pc mem).haltOpcode = 0x00#8 := rfl
@[simp] theorem State.pageCrossed_resetWith (pc : Addr) (mem : Memory) : (State.resetWith pc mem).pageCrossed = false := rfl
@[simp] theorem State.mem_resetWith (pc : Addr) (mem : Memory) : (State.resetWith pc mem).mem = mem := rfl

/-- Two states with the same fields are the same state. -/
theorem State.ext_fields (s t : State)
    (h_a : s.a = t.a)
    (h_x : s.x = t.x)
    (h_y : s.y = t.y)
    (h_pc : s.pc = t.pc)
    (h_sp : s.sp = t.sp)
    (h_p : s.p = t.p)
    (h_cycles : s.cycles = t.cycles)
    (h_halted : s.halted = t.halted)
    (h_haltOpcode : s.haltOpcode = t.haltOpcode)
    (h_pageCrossed : s.pageCrossed = t.pageCrossed)
    (h_mem : s.mem = t.mem) : s = t := by
  cases s
  cases t
  simp_all

end Sys2Proof.Machine
end

