-- ==== Sys2Proof/Laws/Flags.lean ====
section
/-! SUPPORT. The bits of the status register one by one: what writing a flag and `setZN` do to each. -/

namespace Sys2Proof.Machine

/-- A bit of a status byte with one flag written: that flag's bit has the value, every other bit is as before. -/
theorem getLsbD_withFlag (f : Flag) (v : Bool) (p : Byte) {k : Nat} (hk : k < 8) :
    (withFlag f v p).getLsbD k = if k = f.bit then v else p.getLsbD k := by
  cases f <;> cases v <;> interval_cases k <;> simp [withFlag, Flag.mask, Flag.bit]

@[simp] theorem flagOf_withFlag_same (f : Flag) (v : Bool) (p : Byte) : flagOf f (withFlag f v p) = v := by
  have hk : f.bit < 8 := by cases f <;> decide
  simp [flagOf, getLsbD_withFlag f v p hk]

theorem flagOf_withFlag_other {f g : Flag} (h : g ≠ f) (v : Bool) (p : Byte) :
    flagOf g (withFlag f v p) = flagOf g p := by
  have hk : g.bit < 8 := by cases g <;> decide
  have hb : g.bit ≠ f.bit := by cases f <;> cases g <;> first | exact absurd rfl h | decide
  simp [flagOf, getLsbD_withFlag f v p hk, hb]

/-- Two status bytes with the same eight flags are the same byte. -/
theorem status_ext {p q : Byte} (h : ∀ f, flagOf f p = flagOf f q) : p = q := by
  apply BitVec.eq_of_getLsbD_eq
  intro k hk
  have h0 := h .carry
  have h1 := h .zero
  have h2 := h .interruptDisable
  have h3 := h .decimal
  have h4 := h .brk
  have h5 := h .unused
  have h6 := h .overflow
  have h7 := h .negative
  simp only [flagOf, Flag.bit] at h0 h1 h2 h3 h4 h5 h6 h7
  interval_cases k <;> assumption

@[simp] theorem flagOf_zero_znStatus (v p : Byte) : flagOf .zero (znStatus v p) = (v == 0x00#8) := by
  rw [znStatus, flagOf_withFlag_other (by decide), flagOf_withFlag_same]

@[simp] theorem flagOf_negative_znStatus (v p : Byte) : flagOf .negative (znStatus v p) = v.msb := by
  rw [znStatus, flagOf_withFlag_same]

theorem flagOf_znStatus_other {f : Flag} (hz : f ≠ .zero) (hn : f ≠ .negative) (v p : Byte) :
    flagOf f (znStatus v p) = flagOf f p := by
  rw [znStatus, flagOf_withFlag_other hn, flagOf_withFlag_other hz]

/-- `setZN` writes P and nothing else. -/
theorem setZN_eq (v : Byte) (s : State) : setZN v s = s.setP (znStatus v s.p) := rfl

@[simp] theorem p_setZN (v : Byte) (s : State) : (setZN v s).p = znStatus v s.p := rfl
@[simp] theorem a_setZN (v : Byte) (s : State) : (setZN v s).a = s.a := rfl
@[simp] theorem x_setZN (v : Byte) (s : State) : (setZN v s).x = s.x := rfl
@[simp] theorem y_setZN (v : Byte) (s : State) : (setZN v s).y = s.y := rfl
@[simp] theorem pc_setZN (v : Byte) (s : State) : (setZN v s).pc = s.pc := rfl
@[simp] theorem sp_setZN (v : Byte) (s : State) : (setZN v s).sp = s.sp := rfl
@[simp] theorem cycles_setZN (v : Byte) (s : State) : (setZN v s).cycles = s.cycles := rfl
@[simp] theorem halted_setZN (v : Byte) (s : State) : (setZN v s).halted = s.halted := rfl
@[simp] theorem haltOpcode_setZN (v : Byte) (s : State) : (setZN v s).haltOpcode = s.haltOpcode := rfl
@[simp] theorem pageCrossed_setZN (v : Byte) (s : State) : (setZN v s).pageCrossed = s.pageCrossed := rfl
@[simp] theorem mem_setZN (v : Byte) (s : State) : (setZN v s).mem = s.mem := rfl

/-- `setFlag` writes P and nothing else. -/
theorem setFlag_eq (f : Flag) (v : Bool) (s : State) : s.setFlag f v = s.setP (withFlag f v s.p) := rfl

end Sys2Proof.Machine
end

