-- ==== Sys2Proof/Laws/Memory.lean ====
section
/-! SUPPORT. The laws of memory: a read after a write, the canonical form kept by every operation, and equal reads
make equal memories. -/

namespace Sys2Proof.Machine

theorem Memory.lookup_nil (n : Nat) : Memory.lookup [] n = Config.initialByte := rfl

theorem Memory.lookup_cons (k n : Nat) (v : Byte) (m : Memory) :
    Memory.lookup ((k, v) :: m) n = if n = k then v else Memory.lookup m n := rfl

theorem Memory.wfFrom_cons (lo k : Nat) (v : Byte) (m : Memory) :
    Memory.wfFrom lo ((k, v) :: m) = true ↔
      lo ≤ k ∧ k < 65536 ∧ v ≠ Config.initialByte ∧ Memory.wfFrom (k + 1) m = true := by
  simp [Memory.wfFrom, and_assoc]

theorem Memory.wfFrom_mono {lo lo' : Nat} (h : lo' ≤ lo) {m : Memory} (hm : Memory.wfFrom lo m = true) :
    Memory.wfFrom lo' m = true := by
  cases m with
  | nil => rfl
  | cons c m =>
    obtain ⟨k, v⟩ := c
    rw [Memory.wfFrom_cons] at hm ⊢
    exact ⟨by omega, hm.2⟩

/-- Below its lower bound a canonical memory lists nothing. -/
theorem Memory.lookup_of_lt {lo n : Nat} (hn : n < lo) {m : Memory} (hm : Memory.wfFrom lo m = true) :
    Memory.lookup m n = Config.initialByte := by
  induction m generalizing lo with
  | nil => rfl
  | cons c m ih =>
    obtain ⟨k, v⟩ := c
    rw [Memory.wfFrom_cons] at hm
    rw [Memory.lookup_cons, if_neg (by omega)]
    exact ih (by omega) hm.2.2.2

theorem Memory.lookup_store_other {n n' : Nat} (h : n' ≠ n) (m : Memory) (v : Byte) :
    Memory.lookup (Memory.store m n v) n' = Memory.lookup m n' := by
  induction m with
  | nil =>
    rw [Memory.store]
    split
    · rfl
    · rw [Memory.lookup_cons, if_neg h]
  | cons c m ih =>
    obtain ⟨k, w⟩ := c
    rw [Memory.store]
    split
    · split
      · rfl
      · rw [Memory.lookup_cons, if_neg h]
    · split
      · split
        · rw [Memory.lookup_cons, if_neg (by omega)]
        · rw [Memory.lookup_cons, if_neg h, Memory.lookup_cons, if_neg (by omega)]
      · rw [Memory.lookup_cons, Memory.lookup_cons, ih]

theorem Memory.lookup_store_same {lo n : Nat} {m : Memory} (hm : Memory.wfFrom lo m = true) (v : Byte) :
    Memory.lookup (Memory.store m n v) n = v := by
  induction m generalizing lo with
  | nil =>
    rw [Memory.store]
    split
    · next h => rw [h]; rfl
    · rw [Memory.lookup_cons, if_pos rfl]
  | cons c m ih =>
    obtain ⟨k, w⟩ := c
    have hc := (Memory.wfFrom_cons lo k w m).mp hm
    rw [Memory.store]
    split
    · split
      · next hk hv =>
        rw [Memory.lookup_cons, if_neg (by omega), hv]
        exact Memory.lookup_of_lt (by omega) hc.2.2.2
      · rw [Memory.lookup_cons, if_pos rfl]
    · split
      · next hk =>
        split
        · next hv =>
          rw [hv]
          exact Memory.lookup_of_lt (by omega) hc.2.2.2
        · rw [Memory.lookup_cons, if_pos rfl]
      · next hk =>
        rw [Memory.lookup_cons, if_neg hk]
        exact ih hc.2.2.2

theorem Memory.wfFrom_store {lo n : Nat} {m : Memory} (hm : Memory.wfFrom lo m = true) (hlo : lo ≤ n)
    (hn : n < 65536) (v : Byte) : Memory.wfFrom lo (Memory.store m n v) = true := by
  induction m generalizing lo with
  | nil =>
    rw [Memory.store]
    split
    · rfl
    · next hv => exact (Memory.wfFrom_cons ..).mpr ⟨hlo, hn, hv, rfl⟩
  | cons c m ih =>
    obtain ⟨k, w⟩ := c
    have hc := (Memory.wfFrom_cons lo k w m).mp hm
    rw [Memory.store]
    split
    · split
      · exact hm
      · next hk hv =>
        exact (Memory.wfFrom_cons ..).mpr
          ⟨hlo, hn, hv, (Memory.wfFrom_cons ..).mpr ⟨by omega, hc.2⟩⟩
    · split
      · next hk =>
        split
        · exact Memory.wfFrom_mono (by omega) hc.2.2.2
        · next hv => exact (Memory.wfFrom_cons ..).mpr ⟨hlo, hn, hv, hk ▸ hc.2.2.2⟩
      · next hk hk' =>
        exact (Memory.wfFrom_cons ..).mpr ⟨hc.1, hc.2.1, hc.2.2.1, ih hc.2.2.2 (by omega)⟩

/-- A write keeps the canonical form. -/
theorem Memory.wf_write {m : Memory} (hm : m.wf = true) (a : Addr) (v : Byte) : (m.write a v).wf = true :=
  Memory.wfFrom_store hm (Nat.zero_le _) a.isLt v

/-- A read of the address written (R51). -/
theorem Memory.read_write_same {m : Memory} (hm : m.wf = true) (a : Addr) (v : Byte) :
    (m.write a v).read a = v :=
  Memory.lookup_store_same hm v

/-- A read of another address. -/
theorem Memory.read_write_other {a b : Addr} (h : b ≠ a) (m : Memory) (v : Byte) :
    (m.write a v).read b = m.read b :=
  Memory.lookup_store_other (fun e => h (BitVec.eq_of_toNat_eq e)) m v

theorem Memory.wf_writeBytes {m : Memory} (hm : m.wf = true) (a : Addr) (bs : List Byte) :
    (m.writeBytes a bs).wf = true := by
  induction bs generalizing m a with
  | nil => exact hm
  | cons b bs ih => exact ih (Memory.wf_write hm a b) (a + 1)

theorem Memory.lookup_ext_from {lo : Nat} {m m' : Memory} (hm : Memory.wfFrom lo m = true)
    (hm' : Memory.wfFrom lo m' = true) (h : ∀ n, Memory.lookup m n = Memory.lookup m' n) : m = m' := by
  induction m generalizing lo m' with
  | nil =>
    cases m' with
    | nil => rfl
    | cons c m' =>
      obtain ⟨k, v⟩ := c
      have hc := (Memory.wfFrom_cons ..).mp hm'
      have hk := h k
      rw [Memory.lookup_nil, Memory.lookup_cons, if_pos rfl] at hk
      exact absurd hk.symm hc.2.2.1
  | cons c m ih =>
    obtain ⟨k, v⟩ := c
    have hc := (Memory.wfFrom_cons ..).mp hm
    cases m' with
    | nil =>
      have hk := h k
      rw [Memory.lookup_cons, if_pos rfl, Memory.lookup_nil] at hk
      exact absurd hk hc.2.2.1
    | cons c' m' =>
      obtain ⟨k', v'⟩ := c'
      have hc' := (Memory.wfFrom_cons ..).mp hm'
      have hkk : k = k' := by
        have h1 := h k
        have h2 := h k'
        rcases Nat.lt_trichotomy k k' with hlt | heq | hgt
        · rw [Memory.lookup_cons, if_pos rfl, Memory.lookup_cons, if_neg (by omega),
            Memory.lookup_of_lt (by omega) hc'.2.2.2] at h1
          exact absurd h1 hc.2.2.1
        · exact heq
        · rw [Memory.lookup_cons, if_neg (by omega), Memory.lookup_of_lt (by omega) hc.2.2.2, Memory.lookup_cons,
            if_pos rfl] at h2
          exact absurd h2.symm hc'.2.2.1
      subst hkk
      have hv := h k
      rw [Memory.lookup_cons, if_pos rfl, Memory.lookup_cons, if_pos rfl] at hv
      rw [hv, ih hc.2.2.2 hc'.2.2.2]
      intro n
      by_cases hn : n = k
      · rw [hn, Memory.lookup_of_lt (by omega) hc.2.2.2, Memory.lookup_of_lt (by omega) hc'.2.2.2]
      · have := h n
        rwa [Memory.lookup_cons, if_neg hn, Memory.lookup_cons, if_neg hn] at this

/-- At and above 65536 a canonical memory lists nothing. -/
theorem Memory.lookup_of_ge {lo n : Nat} (hn : 65536 ≤ n) {m : Memory} (hm : Memory.wfFrom lo m = true) :
    Memory.lookup m n = Config.initialByte := by
  induction m generalizing lo with
  | nil => rfl
  | cons c m ih =>
    obtain ⟨k, v⟩ := c
    have hc := (Memory.wfFrom_cons ..).mp hm
    rw [Memory.lookup_cons, if_neg (by omega)]
    exact ih hc.2.2.2

/-- Equal memories are equal data: two canonical memories that read the same everywhere are one list. -/
theorem Memory.ext_read {m m' : Memory} (hm : m.wf = true) (hm' : m'.wf = true)
    (h : ∀ a : Addr, m.read a = m'.read a) : m = m' := by
  refine Memory.lookup_ext_from hm hm' fun n => ?_
  by_cases hn : n < 65536
  · simpa [Memory.read, Nat.mod_eq_of_lt hn] using h (BitVec.ofNat 16 n)
  · rw [Memory.lookup_of_ge (by omega) hm, Memory.lookup_of_ge (by omega) hm']

end Sys2Proof.Machine
end

