-- ==== Sys2Proof/Laws/Ops.lean ====
section
/-! SUPPORT. What each shared operation can do, once: pushes, the interrupt entry, the unknown-opcode halt and the
accounting phase, as one record each. -/

namespace Sys2Proof.Machine

/-- A push stores one byte of the stack page and decrements SP; nothing else changes. -/
theorem push_eq (v : Byte) (s : State) :
    push v s = (s.setMem (s.mem.write (stackAddr s.sp) v)).setSp (s.sp - 1) := rfl

/-- The stack page is 0x0100 to 0x01FF. -/
theorem stackAddr_toNat (sp : Byte) : (stackAddr sp).toNat = 256 + sp.toNat := by
  have := sp.isLt
  simp only [stackAddr, zext16, BitVec.toNat_add, BitVec.toNat_setWidth, BitVec.toNat_ofNat]
  omega

theorem stackAddr_inj {a b : Byte} (h : stackAddr a = stackAddr b) : a = b := by
  have := congrArg BitVec.toNat h
  simp only [stackAddr_toNat] at this
  exact BitVec.eq_of_toNat_eq (by omega)

theorem stackAddr_ne_vectorLow (sp : Byte) : brkVectorLow ≠ stackAddr sp := by
  intro h
  have := congrArg BitVec.toNat h
  have := sp.isLt
  simp only [stackAddr_toNat, brkVectorLow, BitVec.toNat_ofNat] at *
  omega

theorem stackAddr_ne_vectorHigh (sp : Byte) : brkVectorHigh ≠ stackAddr sp := by
  intro h
  have := congrArg BitVec.toNat h
  have := sp.isLt
  simp only [stackAddr_toNat, brkVectorHigh, BitVec.toNat_ofNat] at *
  omega

/-- The memory after the three pushes of an interrupt entry. -/
def frameMemory (s : State) : Memory :=
  ((s.mem.write (stackAddr s.sp) (highByte s.pc)).write (stackAddr (s.sp - 1)) (lowByte s.pc)).write
    (stackAddr (s.sp - 1 - 1)) (pushedStatus s.p)

/-- All the three pushes do: three stack bytes, and SP three lower. -/
theorem pushFrame_eq (s : State) : pushFrame s = (s.setMem (frameMemory s)).setSp (s.sp - 1 - 1 - 1) := rfl

/-- A byte outside the three stack bytes is as before the pushes. -/
theorem read_frameMemory_other {s : State} {b : Addr} (h0 : b ≠ stackAddr s.sp) (h1 : b ≠ stackAddr (s.sp - 1))
    (h2 : b ≠ stackAddr (s.sp - 1 - 1)) : (frameMemory s).read b = s.mem.read b := by
  rw [frameMemory, Memory.read_write_other h2, Memory.read_write_other h1, Memory.read_write_other h0]

/-- The pushes never change the vector (R188). -/
theorem readLE_vector_frameMemory (s : State) :
    (frameMemory s).readLE brkVectorLow brkVectorHigh = s.mem.readLE brkVectorLow brkVectorHigh := by
  simp [Memory.readLE, frameMemory, Memory.read_write_other, stackAddr_ne_vectorLow, stackAddr_ne_vectorHigh]

/-- All an interrupt entry does: the frame pushed, SP three lower, I set, PC from the vector as it was before. -/
theorem interruptEntry_eq (s : State) :
    interruptEntry s =
      { s with
        mem := frameMemory s
        sp := s.sp - 1 - 1 - 1
        p := withFlag .interruptDisable true s.p
        pc := s.mem.readLE brkVectorLow brkVectorHigh } := by
  rw [interruptEntry, pushFrame_eq, loadVector, ← readLE_vector_frameMemory s]
  rfl

theorem wf_frameMemory {s : State} (h : s.mem.wf = true) : (frameMemory s).wf = true :=
  Memory.wf_write (Memory.wf_write (Memory.wf_write h _ _) _ _) _ _

/-- All the unknown-opcode halt does (R180). -/
theorem raiseUnknownOpcode_eq (ia : Addr) (op : Byte) (s : State) :
    raiseUnknownOpcode ia op s = { s with pc := ia, haltOpcode := op, halted := true } := rfl

/-- An unknown opcode raised right after its fetch leaves every register but the two of the halt as it was (R189). -/
theorem raiseUnknownOpcode_fetchOpcode (op : Byte) (s : State) :
    raiseUnknownOpcode s.pc op (fetchOpcode s) = { s with haltOpcode := op, halted := true } := rfl

/-- All the accounting phase does (R111). -/
theorem account_eq (n : Nat) (s : State) :
    account n s = { s with cycles := s.cycles + n + penalty s.pageCrossed, pageCrossed := false } := rfl

end Sys2Proof.Machine
end

