-- ==== Sys2Proof/Laws/Operands.lean ====
section
/-! SUPPORT. The resolver: what it depends on and what it leaves in the state. -/

namespace Sys2Proof.Machine

/-- The effective address depends on X, Y and memory (and, for an Immediate, PC) alone. -/
theorem effectiveAddress_congr {s t : State} (o : Operand) (hx : t.x = s.x) (hy : t.y = s.y) (hm : t.mem = s.mem)
    (hp : t.pc = s.pc) : effectiveAddress o t = effectiveAddress o s := by
  cases o <;> simp [effectiveAddress, hx, hy, hm, hp]

/-- For a mode with an address, PC plays no part in it. -/
theorem effectiveAddress_setPc {o : Operand} (h : o.mode.hasAddress = true) (pc : Addr) (s : State) :
    effectiveAddress o (s.setPc pc) = effectiveAddress o s := by
  cases o <;> first | rfl | simp [Operand.mode, AddrMode.hasAddress] at h

/-- The page-crossing report does not depend on PC. -/
@[simp] theorem crossesPage_fetchOpcode (o : Operand) (s : State) :
    crossesPage o (fetchOpcode s) = crossesPage o s := by
  cases o <;> rfl

/-- The value depends on PC in no mode. -/
@[simp] theorem operandValue_fetchOpcode (kind : AccessKind) (o : Operand) (s : State) :
    operandValue kind o (fetchOpcode s) = operandValue kind o s := by
  cases o <;> rfl

/-- Only the three modes that index a 16-bit base report a crossing (R107). -/
theorem crossesPage_eq_false {o : Operand} (h : o.mode ≠ .absoluteX) (h' : o.mode ≠ .absoluteY)
    (h'' : o.mode ≠ .indirectY) (s : State) : crossesPage o s = false := by
  cases o <;> first | rfl | simp_all [Operand.mode]

/-- All that fetching and resolving leave in the state a handler starts in (R95, R110). -/
theorem handlerState_eq (o : Operand) (s : State) :
    handlerState o s =
      { s with
        pc := s.pc + 1 + BitVec.ofNat 16 o.mode.operandBytes
        pageCrossed := crossesPage o s } := by
  rw [handlerState, consumeOperand, crossesPage_fetchOpcode]
  rfl

/-- What a handler may not touch (R110). -/
structure HandlerFrame (h : Handler) : Prop where
  cycles : ∀ a v s, (h a v s).cycles = s.cycles
  halted : ∀ a v s, (h a v s).halted = s.halted
  haltOpcode : ∀ a v s, (h a v s).haltOpcode = s.haltOpcode
  pageCrossed : ∀ a v s, (h a v s).pageCrossed = s.pageCrossed

/-- What a whole transaction does to the fields no handler touches (R110, R111). -/
theorem transact_frame {h : Handler} (hh : HandlerFrame h) (d : Descriptor) (o : Operand) (s : State) :
    (transact d o h s).cycles = s.cycles + d.baseCycles + penalty (crossesPage o s) ∧
    (transact d o h s).halted = s.halted ∧
    (transact d o h s).haltOpcode = s.haltOpcode ∧
    (transact d o h s).pageCrossed = false := by
  simp [transact, account_eq, hh.cycles, hh.halted, hh.haltOpcode, hh.pageCrossed, handlerState_eq]

end Sys2Proof.Machine
end

