-- ==== Sys2Proof/Laws/Exec.lean ====
section
/-! SUPPORT. `exec` as one transaction with the handler its descriptor names: a proof over all instructions becomes a
proof over the 25 handlers. -/

namespace Sys2Proof.Machine

/-- The handler a descriptor's `operate` names (R74, R110); the engine never runs one for the sentinel. -/
def handlerOf : Operate → Handler
  | .lda => handleLda
  | .ldx => handleLdx
  | .ldy => handleLdy
  | .sta => handleSta
  | .stx => handleStx
  | .sty => handleSty
  | .and => handleAnd
  | .ora => handleOra
  | .inc => handleInc
  | .dec => handleDec
  | .inx => handleInx
  | .iny => handleIny
  | .dex => handleDex
  | .dey => handleDey
  | .tax => handleTax
  | .tay => handleTay
  | .txa => handleTxa
  | .tya => handleTya
  | .tsx => handleTsx
  | .txs => handleTxs
  | .clc => handleClc
  | .cld => handleCld
  | .cli => handleCli
  | .clv => handleClv
  | .brk => handleBrk
  | .unimplemented => fun _ _ s => s

/-- Every instruction is the transaction of its row with the handler its row names (R90). -/
theorem exec_eq_run (i : Instr) (s : State) :
    exec i s = run (table i.opcode) i.operand (handlerOf i.operate) s := by
  cases i <;> rfl

/-- R77(a), on instructions: the mode is Implied exactly when the access kind of the handler is. -/
theorem mode_implied_iff (i : Instr) : i.operand.mode = .implied ↔ i.operate.accessKind = .implied := by
  cases i <;> simp [Instr.operate, Instr.operand, Operand.mode, Operate.accessKind]

/-- R77(c), on instructions: what writes memory has an effective address. -/
theorem hasAddress_of_write {i : Instr}
    (h : i.operate.accessKind = .write ∨ i.operate.accessKind = .readModifyWrite) :
    i.operand.mode.hasAddress = true := by
  cases i <;> simp [Instr.operate, Instr.operand, Operand.mode, Operate.accessKind, AddrMode.hasAddress] at h ⊢

/-- For a mode with an address, the opcode fetch plays no part in the effective address. -/
theorem effectiveAddress_fetchOpcode {o : Operand} (h : o.mode.hasAddress = true) (s : State) :
    effectiveAddress o (fetchOpcode s) = effectiveAddress o s :=
  effectiveAddress_setPc h _ s

/-- The value a mode with an address gives a kind that requires one. -/
theorem operandValue_of_hasAddress {o : Operand} (h : o.mode.hasAddress = true) {k : AccessKind}
    (hk : needsValue k = true) (s : State) : operandValue k o s = s.read (effectiveAddress o s) := by
  cases o <;> simp_all [operandValue, Operand.mode, AddrMode.hasAddress]

/-- Every instruction completes, and does this: its handler, given address and value by the access kind of its
mnemonic, in the state after fetch and resolution, and then the accounting (R90, R109-R111). -/
theorem exec_eq (i : Instr) (s : State) :
    exec i s = .next (account (table i.opcode).baseCycles
      (handlerOf i.operate
        (addrArg i.operate.accessKind (resolve i.operate.accessKind i.operand (fetchOpcode s)))
        (valArg i.operate.accessKind (resolve i.operate.accessKind i.operand (fetchOpcode s)))
        (handlerState i.operand s))) := by
  rw [exec_eq_run, run, transact, accessKind_table_opcode]

/-- `exec_eq` for the Read kind: the handler is given the operand value (R109). -/
theorem exec_eq_read {i : Instr} (h : i.operate.accessKind = .read) (s : State) :
    exec i s = .next (account (table i.opcode).baseCycles
      (handlerOf i.operate 0x0000#16 (operandValue .read i.operand s) (handlerState i.operand s))) := by
  rw [exec_eq, h]
  simp only [addrArg, valArg, resolve, operandValue_fetchOpcode]

/-- `exec_eq` for the Write kind: the handler is given the effective address (R109). -/
theorem exec_eq_write {i : Instr} (h : i.operate.accessKind = .write) (s : State) :
    exec i s = .next (account (table i.opcode).baseCycles
      (handlerOf i.operate (effectiveAddress i.operand s) 0x00#8 (handlerState i.operand s))) := by
  rw [exec_eq, h]
  simp only [addrArg, valArg, resolve, effectiveAddress_fetchOpcode (hasAddress_of_write (.inl h))]

/-- `exec_eq` for the ReadModifyWrite kind: the handler is given the effective address and the byte there (R109). -/
theorem exec_eq_readModifyWrite {i : Instr} (h : i.operate.accessKind = .readModifyWrite) (s : State) :
    exec i s = .next (account (table i.opcode).baseCycles
      (handlerOf i.operate (effectiveAddress i.operand s) (s.read (effectiveAddress i.operand s))
        (handlerState i.operand s))) := by
  have ha := hasAddress_of_write (.inr h)
  rw [exec_eq, h]
  simp only [addrArg, valArg, resolve, effectiveAddress_fetchOpcode ha,
    operandValue_of_hasAddress ha (k := .readModifyWrite) rfl]
  rfl

/-- `exec_eq` for the Implied kind: the handler is given nothing (R109). -/
theorem exec_eq_implied {i : Instr} (h : i.operate.accessKind = .implied) (s : State) :
    exec i s = .next (account (table i.opcode).baseCycles
      (handlerOf i.operate 0x0000#16 0x00#8 (handlerState i.operand s))) := by
  rw [exec_eq, h]
  simp only [addrArg, valArg]

/-- No handler touches `cycles`, `halted`, `haltOpcode` or `pageCrossed` (R110). -/
theorem handlerOf_frame (f : Operate) : HandlerFrame (handlerOf f) := by
  cases f with
  | brk =>
    constructor <;> intro a v s <;> simp only [handlerOf, handleBrk, interruptEntry_eq, State.advance] <;> rfl
  | _ => exact ⟨fun _ _ _ => rfl, fun _ _ _ => rfl, fun _ _ _ => rfl, fun _ _ _ => rfl⟩

/-- A handler keeps the canonical form of memory. -/
theorem wf_handlerOf (f : Operate) (a : Addr) (v : Byte) {s : State} (h : s.mem.wf = true) :
    (handlerOf f a v s).mem.wf = true := by
  cases f with
  | sta | stx | sty | inc | dec => exact Memory.wf_write h _ _
  | brk =>
    simp only [handlerOf, handleBrk, interruptEntry_eq]
    exact wf_frameMemory (s := s.advance 1) h
  | _ => exact h

/-- All BRK's handler does: an interrupt entry with PC past the padding byte (R170). -/
theorem handlerOf_brk_eq (a : Addr) (v : Byte) (s : State) :
    handlerOf .brk a v s =
      { s with
        mem := frameMemory (s.advance 1)
        sp := s.sp - 1 - 1 - 1
        p := withFlag .interruptDisable true s.p
        pc := s.mem.readLE brkVectorLow brkVectorHigh } := by
  simp only [handlerOf, handleBrk, interruptEntry_eq]
  rfl

/-- The handlers that write A. -/
theorem a_handlerOf {f : Operate} (h : f ∉ [Operate.lda, .and, .ora, .txa, .tya]) (a : Addr) (v : Byte) (s : State) :
    (handlerOf f a v s).a = s.a := by
  cases f <;> first | exact absurd (by decide) h | rw [handlerOf_brk_eq] | rfl

/-- The handlers that write X. -/
theorem x_handlerOf {f : Operate} (h : f ∉ [Operate.ldx, .inx, .dex, .tax, .tsx]) (a : Addr) (v : Byte) (s : State) :
    (handlerOf f a v s).x = s.x := by
  cases f <;> first | exact absurd (by decide) h | rw [handlerOf_brk_eq] | rfl

/-- The handlers that write Y. -/
theorem y_handlerOf {f : Operate} (h : f ∉ [Operate.ldy, .iny, .dey, .tay]) (a : Addr) (v : Byte) (s : State) :
    (handlerOf f a v s).y = s.y := by
  cases f <;> first | exact absurd (by decide) h | rw [handlerOf_brk_eq] | rfl

/-- The handlers that write SP. -/
theorem sp_handlerOf {f : Operate} (h : f ∉ [Operate.txs, .brk]) (a : Addr) (v : Byte) (s : State) :
    (handlerOf f a v s).sp = s.sp := by
  cases f <;> first | exact absurd (by decide) h | rfl

/-- Only BRK's handler writes PC. -/
theorem pc_handlerOf {f : Operate} (h : f ≠ .brk) (a : Addr) (v : Byte) (s : State) :
    (handlerOf f a v s).pc = s.pc := by
  cases f <;> first | exact absurd rfl h | rfl

/-- P after a handler given the value `v` (R112, R32). -/
def statusAfter (f : Operate) (v : Byte) (s : State) : Byte :=
  match f with
  | .lda | .ldx | .ldy => znStatus v s.p
  | .and => znStatus (s.a &&& v) s.p
  | .ora => znStatus (s.a ||| v) s.p
  | .inc => znStatus (v + 1) s.p
  | .dec => znStatus (v - 1) s.p
  | .inx => znStatus (s.x + 1) s.p
  | .iny => znStatus (s.y + 1) s.p
  | .dex => znStatus (s.x - 1) s.p
  | .dey => znStatus (s.y - 1) s.p
  | .tax | .tay => znStatus s.a s.p
  | .txa => znStatus s.x s.p
  | .tya => znStatus s.y s.p
  | .tsx => znStatus s.sp s.p
  | .clc => withFlag .carry false s.p
  | .cld => withFlag .decimal false s.p
  | .cli => withFlag .interruptDisable false s.p
  | .clv => withFlag .overflow false s.p
  | .brk => withFlag .interruptDisable true s.p
  | .sta | .stx | .sty | .txs | .unimplemented => s.p

theorem p_handlerOf (f : Operate) (a : Addr) (v : Byte) (s : State) : (handlerOf f a v s).p = statusAfter f v s := by
  cases f <;> first | rw [handlerOf_brk_eq]; rfl | rfl

/-- Memory after a handler given `(a, v)`. -/
def memoryAfter (f : Operate) (a : Addr) (v : Byte) (s : State) : Memory :=
  match f with
  | .sta => s.mem.write a s.a
  | .stx => s.mem.write a s.x
  | .sty => s.mem.write a s.y
  | .inc => s.mem.write a (v + 1)
  | .dec => s.mem.write a (v - 1)
  | .brk => frameMemory (s.advance 1)
  | .lda | .ldx | .ldy | .and | .ora | .inx | .iny | .dex | .dey | .tax | .tay | .txa | .tya | .tsx | .txs
  | .clc | .cld | .cli | .clv | .unimplemented => s.mem

theorem mem_handlerOf (f : Operate) (a : Addr) (v : Byte) (s : State) :
    (handlerOf f a v s).mem = memoryAfter f a v s := by
  cases f <;> first | rw [handlerOf_brk_eq]; rfl | rfl

/-- The value an instruction's handler is given, in the words of the operand: the value of the kind, or 0 (R109). -/
theorem valArg_resolve (i : Instr) (s : State) :
    valArg i.operate.accessKind (resolve i.operate.accessKind i.operand (fetchOpcode s)) =
      if needsValue i.operate.accessKind then operandValue i.operate.accessKind i.operand s else 0x00#8 := by
  rw [← operandValue_fetchOpcode]
  cases i.operate.accessKind <;> rfl

/-- `exec_eq` read backwards: the only state an instruction can answer. -/
theorem exec_next {i : Instr} {s t : State} (h : exec i s = .next t) :
    t = account (table i.opcode).baseCycles
      (handlerOf i.operate
        (addrArg i.operate.accessKind (resolve i.operate.accessKind i.operand (fetchOpcode s)))
        (valArg i.operate.accessKind (resolve i.operate.accessKind i.operand (fetchOpcode s)))
        (handlerState i.operand s)) := by
  rw [exec_eq] at h
  exact (Host.Outcome.next.inj h).symm

end Sys2Proof.Machine
end

