-- ==== Sys2Proof/Laws/Bus.lean ====
section
/-! SUPPORT. The access list of an instruction: reads first, then what its handler does. -/

namespace Sys2Proof.Machine

/-- The reads an instruction makes before its handler runs (R60 items 1 to 4). -/
def instrReads (i : Instr) (s : State) : List Access :=
  .read s.pc :: (operandReads (s.pc + 1) i.operand.mode.operandBytes
    ++ pointerReads i.operand s ++ valueReads i.operate.accessKind i.operand s)

/-- The accesses of an instruction are those reads and then its handler's (R60). -/
theorem instrAccesses_eq (i : Instr) (s : State) :
    instrAccesses i s = instrReads i s ++ handlerAccesses i.operate
      (addrArg i.operate.accessKind (resolve i.operate.accessKind i.operand (fetchOpcode s)))
      (valArg i.operate.accessKind (resolve i.operate.accessKind i.operand (fetchOpcode s)))
      (handlerState i.operand s) := by
  simp [instrAccesses, instrReads]

theorem isWrite_operandReads (a : Addr) (n : Nat) : ∀ x ∈ operandReads a n, x.isWrite = false := by
  induction n generalizing a with
  | zero => simp [operandReads]
  | succ n ih =>
    intro x hx
    rcases List.mem_cons.mp hx with rfl | hx
    · rfl
    · exact ih (a + 1) x hx

theorem isWrite_pointerReads (o : Operand) (s : State) : ∀ x ∈ pointerReads o s, x.isWrite = false := by
  cases o <;> simp [pointerReads, pointerPair, Access.isWrite]

theorem isWrite_valueReads (kind : AccessKind) (o : Operand) (s : State) :
    ∀ x ∈ valueReads kind o s, x.isWrite = false := by
  unfold valueReads
  split <;> simp [Access.isWrite]

theorem isWrite_instrReads (i : Instr) (s : State) : ∀ x ∈ instrReads i s, x.isWrite = false := by
  intro x hx
  simp only [instrReads, List.mem_cons, List.mem_append] at hx
  rcases hx with rfl | (hx | hx) | hx
  · rfl
  · exact isWrite_operandReads _ _ x hx
  · exact isWrite_pointerReads _ _ x hx
  · exact isWrite_valueReads _ _ _ x hx

/-- Reads replayed on memory change nothing (R56). -/
theorem replay_reads {trace : List Access} (h : ∀ x ∈ trace, x.isWrite = false) (m : Memory) :
    replay m trace = m := by
  induction trace generalizing m with
  | nil => rfl
  | cons x trace ih =>
    have hx := h x (List.mem_cons_self ..)
    cases x with
    | read a => exact ih (fun y hy => h y (List.mem_cons_of_mem _ hy)) m
    | write a v => simp [Access.isWrite] at hx

theorem replay_append (m : Memory) (t t' : List Access) : replay m (t ++ t') = replay (replay m t) t' := by
  simp [replay]

/-- A handler's accesses, replayed on the memory it starts from, give the memory it leaves. -/
theorem replay_handlerAccesses (f : Operate) (a : Addr) (v : Byte) (s : State) :
    replay s.mem (handlerAccesses f a v s) = memoryAfter f a v s := by
  cases f
  case brk =>
    have h : (s.advance 1).sp - 2 = (s.advance 1).sp - 1 - 1 := by rw [BitVec.sub_sub]; rfl
    simp only [handlerAccesses, entryAccesses, h]
    rfl
  all_goals rfl

end Sys2Proof.Machine
end

