-- ==== Sys2Proof/Laws/PerInstr.lean ====
section
/-! SUPPORT. Facts of every instruction as syntax, one lemma per constructor. -/

namespace Sys2Proof.Laws

/-- The pairing of `i` is one R75 has, and the encoder writes the bytes its format has (R71): the opcode byte, those
the mode consumes, and for BRK the padding byte. -/
def Encoding.Statement (i : Instr) : Prop :=
  i.wellFormed = true ∧ (encode i).head? = some i.opcode ∧
    (encode i).length = if i.operate = .brk then 2 else 1 + i.operand.mode.operandBytes

theorem Encoding.ldaImmediate (imm : Byte) : Encoding.Statement (.ldaImmediate imm) := ⟨rfl, rfl, rfl⟩
theorem Encoding.ldaZeroPage (zp : Byte) : Encoding.Statement (.ldaZeroPage zp) := ⟨rfl, rfl, rfl⟩
theorem Encoding.ldaZeroPageX (zp : Byte) : Encoding.Statement (.ldaZeroPageX zp) := ⟨rfl, rfl, rfl⟩
theorem Encoding.ldaAbsolute (abs : Addr) : Encoding.Statement (.ldaAbsolute abs) := ⟨rfl, rfl, rfl⟩
theorem Encoding.ldaAbsoluteX (abs : Addr) : Encoding.Statement (.ldaAbsoluteX abs) := ⟨rfl, rfl, rfl⟩
theorem Encoding.ldaAbsoluteY (abs : Addr) : Encoding.Statement (.ldaAbsoluteY abs) := ⟨rfl, rfl, rfl⟩
theorem Encoding.ldaIndirectX (zp : Byte) : Encoding.Statement (.ldaIndirectX zp) := ⟨rfl, rfl, rfl⟩
theorem Encoding.ldaIndirectY (zp : Byte) : Encoding.Statement (.ldaIndirectY zp) := ⟨rfl, rfl, rfl⟩
theorem Encoding.ldxImmediate (imm : Byte) : Encoding.Statement (.ldxImmediate imm) := ⟨rfl, rfl, rfl⟩
theorem Encoding.ldxZeroPage (zp : Byte) : Encoding.Statement (.ldxZeroPage zp) := ⟨rfl, rfl, rfl⟩
theorem Encoding.ldxZeroPageY (zp : Byte) : Encoding.Statement (.ldxZeroPageY zp) := ⟨rfl, rfl, rfl⟩
theorem Encoding.ldxAbsolute (abs : Addr) : Encoding.Statement (.ldxAbsolute abs) := ⟨rfl, rfl, rfl⟩
theorem Encoding.ldxAbsoluteY (abs : Addr) : Encoding.Statement (.ldxAbsoluteY abs) := ⟨rfl, rfl, rfl⟩
theorem Encoding.ldyImmediate (imm : Byte) : Encoding.Statement (.ldyImmediate imm) := ⟨rfl, rfl, rfl⟩
theorem Encoding.ldyZeroPage (zp : Byte) : Encoding.Statement (.ldyZeroPage zp) := ⟨rfl, rfl, rfl⟩
theorem Encoding.ldyZeroPageX (zp : Byte) : Encoding.Statement (.ldyZeroPageX zp) := ⟨rfl, rfl, rfl⟩
theorem Encoding.ldyAbsolute (abs : Addr) : Encoding.Statement (.ldyAbsolute abs) := ⟨rfl, rfl, rfl⟩
theorem Encoding.ldyAbsoluteX (abs : Addr) : Encoding.Statement (.ldyAbsoluteX abs) := ⟨rfl, rfl, rfl⟩
theorem Encoding.staZeroPage (zp : Byte) : Encoding.Statement (.staZeroPage zp) := ⟨rfl, rfl, rfl⟩
theorem Encoding.staZeroPageX (zp : Byte) : Encoding.Statement (.staZeroPageX zp) := ⟨rfl, rfl, rfl⟩
theorem Encoding.staAbsolute (abs : Addr) : Encoding.Statement (.staAbsolute abs) := ⟨rfl, rfl, rfl⟩
theorem Encoding.staAbsoluteX (abs : Addr) : Encoding.Statement (.staAbsoluteX abs) := ⟨rfl, rfl, rfl⟩
theorem Encoding.staAbsoluteY (abs : Addr) : Encoding.Statement (.staAbsoluteY abs) := ⟨rfl, rfl, rfl⟩
theorem Encoding.staIndirectX (zp : Byte) : Encoding.Statement (.staIndirectX zp) := ⟨rfl, rfl, rfl⟩
theorem Encoding.staIndirectY (zp : Byte) : Encoding.Statement (.staIndirectY zp) := ⟨rfl, rfl, rfl⟩
theorem Encoding.stxZeroPage (zp : Byte) : Encoding.Statement (.stxZeroPage zp) := ⟨rfl, rfl, rfl⟩
theorem Encoding.stxZeroPageY (zp : Byte) : Encoding.Statement (.stxZeroPageY zp) := ⟨rfl, rfl, rfl⟩
theorem Encoding.stxAbsolute (abs : Addr) : Encoding.Statement (.stxAbsolute abs) := ⟨rfl, rfl, rfl⟩
theorem Encoding.styZeroPage (zp : Byte) : Encoding.Statement (.styZeroPage zp) := ⟨rfl, rfl, rfl⟩
theorem Encoding.styZeroPageX (zp : Byte) : Encoding.Statement (.styZeroPageX zp) := ⟨rfl, rfl, rfl⟩
theorem Encoding.styAbsolute (abs : Addr) : Encoding.Statement (.styAbsolute abs) := ⟨rfl, rfl, rfl⟩
theorem Encoding.andImmediate (imm : Byte) : Encoding.Statement (.andImmediate imm) := ⟨rfl, rfl, rfl⟩
theorem Encoding.andZeroPage (zp : Byte) : Encoding.Statement (.andZeroPage zp) := ⟨rfl, rfl, rfl⟩
theorem Encoding.andZeroPageX (zp : Byte) : Encoding.Statement (.andZeroPageX zp) := ⟨rfl, rfl, rfl⟩
theorem Encoding.andAbsolute (abs : Addr) : Encoding.Statement (.andAbsolute abs) := ⟨rfl, rfl, rfl⟩
theorem Encoding.andAbsoluteX (abs : Addr) : Encoding.Statement (.andAbsoluteX abs) := ⟨rfl, rfl, rfl⟩
theorem Encoding.andAbsoluteY (abs : Addr) : Encoding.Statement (.andAbsoluteY abs) := ⟨rfl, rfl, rfl⟩
theorem Encoding.andIndirectX (zp : Byte) : Encoding.Statement (.andIndirectX zp) := ⟨rfl, rfl, rfl⟩
theorem Encoding.andIndirectY (zp : Byte) : Encoding.Statement (.andIndirectY zp) := ⟨rfl, rfl, rfl⟩
theorem Encoding.oraImmediate (imm : Byte) : Encoding.Statement (.oraImmediate imm) := ⟨rfl, rfl, rfl⟩
theorem Encoding.oraZeroPage (zp : Byte) : Encoding.Statement (.oraZeroPage zp) := ⟨rfl, rfl, rfl⟩
theorem Encoding.oraZeroPageX (zp : Byte) : Encoding.Statement (.oraZeroPageX zp) := ⟨rfl, rfl, rfl⟩
theorem Encoding.oraAbsolute (abs : Addr) : Encoding.Statement (.oraAbsolute abs) := ⟨rfl, rfl, rfl⟩
theorem Encoding.oraAbsoluteX (abs : Addr) : Encoding.Statement (.oraAbsoluteX abs) := ⟨rfl, rfl, rfl⟩
theorem Encoding.oraAbsoluteY (abs : Addr) : Encoding.Statement (.oraAbsoluteY abs) := ⟨rfl, rfl, rfl⟩
theorem Encoding.oraIndirectX (zp : Byte) : Encoding.Statement (.oraIndirectX zp) := ⟨rfl, rfl, rfl⟩
theorem Encoding.oraIndirectY (zp : Byte) : Encoding.Statement (.oraIndirectY zp) := ⟨rfl, rfl, rfl⟩
theorem Encoding.incZeroPage (zp : Byte) : Encoding.Statement (.incZeroPage zp) := ⟨rfl, rfl, rfl⟩
theorem Encoding.incZeroPageX (zp : Byte) : Encoding.Statement (.incZeroPageX zp) := ⟨rfl, rfl, rfl⟩
theorem Encoding.incAbsolute (abs : Addr) : Encoding.Statement (.incAbsolute abs) := ⟨rfl, rfl, rfl⟩
theorem Encoding.incAbsoluteX (abs : Addr) : Encoding.Statement (.incAbsoluteX abs) := ⟨rfl, rfl, rfl⟩
theorem Encoding.decZeroPage (zp : Byte) : Encoding.Statement (.decZeroPage zp) := ⟨rfl, rfl, rfl⟩
theorem Encoding.decZeroPageX (zp : Byte) : Encoding.Statement (.decZeroPageX zp) := ⟨rfl, rfl, rfl⟩
theorem Encoding.decAbsolute (abs : Addr) : Encoding.Statement (.decAbsolute abs) := ⟨rfl, rfl, rfl⟩
theorem Encoding.decAbsoluteX (abs : Addr) : Encoding.Statement (.decAbsoluteX abs) := ⟨rfl, rfl, rfl⟩
theorem Encoding.inx : Encoding.Statement .inx := ⟨rfl, rfl, rfl⟩
theorem Encoding.iny : Encoding.Statement .iny := ⟨rfl, rfl, rfl⟩
theorem Encoding.dex : Encoding.Statement .dex := ⟨rfl, rfl, rfl⟩
theorem Encoding.dey : Encoding.Statement .dey := ⟨rfl, rfl, rfl⟩
theorem Encoding.tax : Encoding.Statement .tax := ⟨rfl, rfl, rfl⟩
theorem Encoding.tay : Encoding.Statement .tay := ⟨rfl, rfl, rfl⟩
theorem Encoding.txa : Encoding.Statement .txa := ⟨rfl, rfl, rfl⟩
theorem Encoding.tya : Encoding.Statement .tya := ⟨rfl, rfl, rfl⟩
theorem Encoding.tsx : Encoding.Statement .tsx := ⟨rfl, rfl, rfl⟩
theorem Encoding.txs : Encoding.Statement .txs := ⟨rfl, rfl, rfl⟩
theorem Encoding.clc : Encoding.Statement .clc := ⟨rfl, rfl, rfl⟩
theorem Encoding.cld : Encoding.Statement .cld := ⟨rfl, rfl, rfl⟩
theorem Encoding.cli : Encoding.Statement .cli := ⟨rfl, rfl, rfl⟩
theorem Encoding.clv : Encoding.Statement .clv := ⟨rfl, rfl, rfl⟩
theorem Encoding.brk : Encoding.Statement .brk := ⟨rfl, rfl, rfl⟩

end Sys2Proof.Laws
end

