-- ==== Sys2Proof/Laws/Step.lean ====
section
/-! SUPPORT. Everything a step can do, as one inversion lemma. -/

namespace Sys2Proof.Machine

/-- A step that answers `t` was taken while halted, or met an unknown opcode, or ran the instruction at PC. -/
theorem step_cases {s t : State} (h : step s = .next t) :
    (s.halted = true ∧ t = s) ∨
    (s.halted = false ∧ fetchInstr s = none ∧ t = { s with haltOpcode := opcodeAt s, halted := true }) ∨
    (s.halted = false ∧ ∃ i, fetchInstr s = some i ∧
      t = transact (table i.opcode) i.operand (handlerOf i.operate) s) := by
  unfold step at h
  split at h
  · next hh => exact .inl ⟨hh, (Host.Outcome.next.inj h).symm⟩
  · next hh =>
    have hh : s.halted = false := by simpa using hh
    cases hf : fetchInstr s with
    | none =>
      simp only [hf] at h
      exact .inr (.inl ⟨hh, rfl, by rw [← Host.Outcome.next.inj h, raiseUnknownOpcode_fetchOpcode]⟩)
    | some i =>
      simp only [hf, exec_eq_run, run] at h
      exact .inr (.inr ⟨hh, i, rfl, (Host.Outcome.next.inj h).symm⟩)

/-- A halted core answers its own state (R91). -/
theorem step_halted {s : State} (h : s.halted = true) : step s = .next s := by
  simp [step, h]

/-- A running core runs the instruction it fetches (R90). -/
theorem step_run {s : State} {i : Instr} (hh : s.halted = false) (hf : fetchInstr s = some i) :
    step s = exec i s := by
  simp [step, hh, hf]

/-- A running core that fetches no instruction halts (R180). -/
theorem step_unknown {s : State} (hh : s.halted = false) (hf : fetchInstr s = none) :
    step s = .next { s with halted := true, haltOpcode := s.read s.pc } := by
  simp only [step, hh, hf]
  rfl

/-- The fetch gives no instruction exactly when the byte at PC has no row. -/
theorem fetchInstr_eq_none_iff (s : State) : fetchInstr s = none ↔ s.read s.pc ∉ opcodeRows.map (·.1) := by
  rw [fetchInstr, instrAt_eq_none_iff, mem_opcodeRows_iff, not_not]
  rfl

/-- The fetched instruction's opcode is the byte at PC. -/
theorem opcode_of_fetchInstr {s : State} {i : Instr} (hf : fetchInstr s = some i) : i.opcode = s.read s.pc :=
  opcode_of_instrAt hf

theorem run_zero (s : State) : Host.Core.run Sys2Proof.core 0 s = .next s := rfl

/-- A run whose first step answers `t` goes on from `t`. -/
theorem run_succ {s t : State} (h : step s = .next t) (k : Nat) :
    Host.Core.run Sys2Proof.core (k + 1) s = Host.Core.run Sys2Proof.core k t := by
  have h' : Sys2Proof.core.step s = .next t := h
  simp only [Host.Core.run, h']

/-- A transaction keeps the canonical form of memory. -/
theorem wf_transact {s : State} (h : s.mem.wf = true) (d : Descriptor) (o : Operand) (f : Operate) :
    (transact d o (handlerOf f) s).mem.wf = true :=
  wf_handlerOf f _ _ (s := handlerState o s) h

/-- An instruction placed by `withFetchWord` keeps the canonical form of memory. -/
theorem wf_withFetchWord {s : State} (h : s.mem.wf = true) (nbits w : Nat) :
    (s.withFetchWord nbits w).mem.wf = true :=
  Memory.wf_writeBytes h _ _

end Sys2Proof.Machine
end

