-- ==== Sys2Proof/Tests/Slice0.lean ====
section
/-! SUPPORT. The model's own tests: what `WellFormed` refuses, every constructor's word written out from
30_encoding.md R71 and R75, the vectors of 95_test_vectors.md that are one step, and, for every obligation with
hypotheses, a witness that meets them all. -/

namespace Sys2Proof.Tests

open Sys2Proof.Machine Sys2Proof.Claims

-- One kernel evaluation at a time: side by side they ask for more threads than the memory limit has stacks for.
set_option Elab.async false

/-- A state as after reset, with PC at `pc`, the instruction bytes there and the listed bytes in memory. -/
def code (pc : Addr) (bytes : List Byte) (cells : List (Addr × Byte)) : State :=
  { State.reset with
    pc := pc
    mem := Memory.writeBytes (cells.foldl (fun (m : Memory) c => Memory.write m c.1 c.2) []) pc bytes }

/-- Whether a step's answer is a next state with `P`. -/
def meets (P : State → Prop) [DecidablePred P] : Result → Bool
  | .next t => decide (P t)
  | .fault _ => false
  | .refused _ => false

theorem of_meets {P : State → Prop} [DecidablePred P] {r : Result} (h : meets P r = true) : ∃ t, r = .next t ∧ P t := by
  cases r with
  | next t => exact ⟨t, rfl, of_decide_eq_true h⟩
  | fault f => exact nomatch f
  | refused f => exact nomatch h

/-! ## What the checks of WellFormed refuse (R77, R75) -/

/-- R77(a): an addressing mode with the Implied access kind. -/
theorem test_impliedTogether_refuses :
    Descriptor.impliedTogether ⟨"INX", .inx, .zeroPage, .implied, 2, 2⟩ = false ∧
    Descriptor.wellFormed ⟨"INX", .inx, .zeroPage, .implied, 2, 2⟩ = false := by decide

/-- R77(b): an immediate that is written. -/
theorem test_immediateReads_refuses :
    Descriptor.immediateReads ⟨"STA", .sta, .immediate, .write, 2, 2⟩ = false ∧
    Descriptor.wellFormed ⟨"STA", .sta, .immediate, .write, 2, 2⟩ = false := by decide

/-- R77(c): a write with no effective address. -/
theorem test_writesHaveAddress_refuses :
    Descriptor.writesHaveAddress ⟨"STX", .stx, .implied, .write, 1, 2⟩ = false ∧
    Descriptor.wellFormed ⟨"STX", .stx, .implied, .write, 1, 2⟩ = false := by decide

/-- R77(d): a length that is not the opcode and the mode's bytes; BRK with length 1. -/
theorem test_lengthAgrees_refuses :
    Descriptor.lengthAgrees ⟨"LDA", .lda, .absolute, .read, 2, 4⟩ = false ∧
    Descriptor.wellFormed ⟨"LDA", .lda, .absolute, .read, 2, 4⟩ = false ∧
    Descriptor.lengthAgrees ⟨"BRK", .brk, .implied, .implied, 1, 7⟩ = false := by decide

/-- R75: a mode the mnemonic does not have (LDX AbsoluteX). -/
theorem test_modeAllowed_refuses :
    Descriptor.modeAllowed ⟨"LDX", .ldx, .absoluteX, .read, 3, 4⟩ = false ∧
    Descriptor.wellFormed ⟨"LDX", .ldx, .absoluteX, .read, 3, 4⟩ = false := by decide

/-- R75: the access kind of another contract (INC as Read). -/
theorem test_kindAgrees_refuses :
    Descriptor.kindAgrees ⟨"INC", .inc, .zeroPage, .read, 2, 5⟩ = false ∧
    Descriptor.wellFormed ⟨"INC", .inc, .zeroPage, .read, 2, 5⟩ = false := by decide

/-- R75: pairings without an opcode, and the sentinel's. -/
theorem test_pairingWellFormed_refuses :
    pairingWellFormed .sta (.immediate 0x01#8) = false ∧ pairingWellFormed .ldx (.absoluteX 0x1234#16) = false ∧
    pairingWellFormed .unimplemented .implied = false ∧ pairingWellFormed .stx (.zeroPageX 0x10#8) = false := by
  decide

/-- No such pairing names an instruction either. -/
theorem test_ofPairing_refuses :
    Instr.ofPairing? .sta (.immediate 0x01#8) = none ∧ Instr.ofPairing? .ldx (.absoluteX 0x1234#16) = none ∧
    Instr.ofPairing? .unimplemented .implied = none ∧ Instr.ofPairing? .stx (.zeroPageX 0x10#8) = none := by
  decide

/-! ## Every constructor's word, written out from R75 and R71: opcode byte, then 0x34 and, for an address, 0x12 -/

theorem test_decode_ora :
    decode [0x01#8, 0x34#8, 0x12#8] = .instr (.oraIndirectX 0x34#8) [0x12#8] ∧
    decode [0x05#8, 0x34#8, 0x12#8] = .instr (.oraZeroPage 0x34#8) [0x12#8] ∧
    decode [0x09#8, 0x34#8, 0x12#8] = .instr (.oraImmediate 0x34#8) [0x12#8] ∧
    decode [0x0D#8, 0x34#8, 0x12#8] = .instr (.oraAbsolute 0x1234#16) [] ∧
    decode [0x11#8, 0x34#8, 0x12#8] = .instr (.oraIndirectY 0x34#8) [0x12#8] ∧
    decode [0x15#8, 0x34#8, 0x12#8] = .instr (.oraZeroPageX 0x34#8) [0x12#8] ∧
    decode [0x19#8, 0x34#8, 0x12#8] = .instr (.oraAbsoluteY 0x1234#16) [] ∧
    decode [0x1D#8, 0x34#8, 0x12#8] = .instr (.oraAbsoluteX 0x1234#16) [] := by
  decide +kernel

theorem test_decode_and :
    decode [0x21#8, 0x34#8, 0x12#8] = .instr (.andIndirectX 0x34#8) [0x12#8] ∧
    decode [0x25#8, 0x34#8, 0x12#8] = .instr (.andZeroPage 0x34#8) [0x12#8] ∧
    decode [0x29#8, 0x34#8, 0x12#8] = .instr (.andImmediate 0x34#8) [0x12#8] ∧
    decode [0x2D#8, 0x34#8, 0x12#8] = .instr (.andAbsolute 0x1234#16) [] ∧
    decode [0x31#8, 0x34#8, 0x12#8] = .instr (.andIndirectY 0x34#8) [0x12#8] ∧
    decode [0x35#8, 0x34#8, 0x12#8] = .instr (.andZeroPageX 0x34#8) [0x12#8] ∧
    decode [0x39#8, 0x34#8, 0x12#8] = .instr (.andAbsoluteY 0x1234#16) [] ∧
    decode [0x3D#8, 0x34#8, 0x12#8] = .instr (.andAbsoluteX 0x1234#16) [] := by
  decide +kernel

theorem test_decode_sta :
    decode [0x81#8, 0x34#8, 0x12#8] = .instr (.staIndirectX 0x34#8) [0x12#8] ∧
    decode [0x85#8, 0x34#8, 0x12#8] = .instr (.staZeroPage 0x34#8) [0x12#8] ∧
    decode [0x8D#8, 0x34#8, 0x12#8] = .instr (.staAbsolute 0x1234#16) [] ∧
    decode [0x91#8, 0x34#8, 0x12#8] = .instr (.staIndirectY 0x34#8) [0x12#8] ∧
    decode [0x95#8, 0x34#8, 0x12#8] = .instr (.staZeroPageX 0x34#8) [0x12#8] ∧
    decode [0x99#8, 0x34#8, 0x12#8] = .instr (.staAbsoluteY 0x1234#16) [] ∧
    decode [0x9D#8, 0x34#8, 0x12#8] = .instr (.staAbsoluteX 0x1234#16) [] := by
  decide +kernel

theorem test_decode_sty :
    decode [0x84#8, 0x34#8, 0x12#8] = .instr (.styZeroPage 0x34#8) [0x12#8] ∧
    decode [0x8C#8, 0x34#8, 0x12#8] = .instr (.styAbsolute 0x1234#16) [] ∧
    decode [0x94#8, 0x34#8, 0x12#8] = .instr (.styZeroPageX 0x34#8) [0x12#8] := by
  decide +kernel

theorem test_decode_stx :
    decode [0x86#8, 0x34#8, 0x12#8] = .instr (.stxZeroPage 0x34#8) [0x12#8] ∧
    decode [0x8E#8, 0x34#8, 0x12#8] = .instr (.stxAbsolute 0x1234#16) [] ∧
    decode [0x96#8, 0x34#8, 0x12#8] = .instr (.stxZeroPageY 0x34#8) [0x12#8] := by
  decide +kernel

theorem test_decode_ldy :
    decode [0xA0#8, 0x34#8, 0x12#8] = .instr (.ldyImmediate 0x34#8) [0x12#8] ∧
    decode [0xA4#8, 0x34#8, 0x12#8] = .instr (.ldyZeroPage 0x34#8) [0x12#8] ∧
    decode [0xAC#8, 0x34#8, 0x12#8] = .instr (.ldyAbsolute 0x1234#16) [] ∧
    decode [0xB4#8, 0x34#8, 0x12#8] = .instr (.ldyZeroPageX 0x34#8) [0x12#8] ∧
    decode [0xBC#8, 0x34#8, 0x12#8] = .instr (.ldyAbsoluteX 0x1234#16) [] := by
  decide +kernel

theorem test_decode_lda :
    decode [0xA1#8, 0x34#8, 0x12#8] = .instr (.ldaIndirectX 0x34#8) [0x12#8] ∧
    decode [0xA5#8, 0x34#8, 0x12#8] = .instr (.ldaZeroPage 0x34#8) [0x12#8] ∧
    decode [0xA9#8, 0x34#8, 0x12#8] = .instr (.ldaImmediate 0x34#8) [0x12#8] ∧
    decode [0xAD#8, 0x34#8, 0x12#8] = .instr (.ldaAbsolute 0x1234#16) [] ∧
    decode [0xB1#8, 0x34#8, 0x12#8] = .instr (.ldaIndirectY 0x34#8) [0x12#8] ∧
    decode [0xB5#8, 0x34#8, 0x12#8] = .instr (.ldaZeroPageX 0x34#8) [0x12#8] ∧
    decode [0xB9#8, 0x34#8, 0x12#8] = .instr (.ldaAbsoluteY 0x1234#16) [] ∧
    decode [0xBD#8, 0x34#8, 0x12#8] = .instr (.ldaAbsoluteX 0x1234#16) [] := by
  decide +kernel

theorem test_decode_ldx :
    decode [0xA2#8, 0x34#8, 0x12#8] = .instr (.ldxImmediate 0x34#8) [0x12#8] ∧
    decode [0xA6#8, 0x34#8, 0x12#8] = .instr (.ldxZeroPage 0x34#8) [0x12#8] ∧
    decode [0xAE#8, 0x34#8, 0x12#8] = .instr (.ldxAbsolute 0x1234#16) [] ∧
    decode [0xB6#8, 0x34#8, 0x12#8] = .instr (.ldxZeroPageY 0x34#8) [0x12#8] ∧
    decode [0xBE#8, 0x34#8, 0x12#8] = .instr (.ldxAbsoluteY 0x1234#16) [] := by
  decide +kernel

theorem test_decode_dec :
    decode [0xC6#8, 0x34#8, 0x12#8] = .instr (.decZeroPage 0x34#8) [0x12#8] ∧
    decode [0xCE#8, 0x34#8, 0x12#8] = .instr (.decAbsolute 0x1234#16) [] ∧
    decode [0xD6#8, 0x34#8, 0x12#8] = .instr (.decZeroPageX 0x34#8) [0x12#8] ∧
    decode [0xDE#8, 0x34#8, 0x12#8] = .instr (.decAbsoluteX 0x1234#16) [] := by
  decide +kernel

theorem test_decode_inc :
    decode [0xE6#8, 0x34#8, 0x12#8] = .instr (.incZeroPage 0x34#8) [0x12#8] ∧
    decode [0xEE#8, 0x34#8, 0x12#8] = .instr (.incAbsolute 0x1234#16) [] ∧
    decode [0xF6#8, 0x34#8, 0x12#8] = .instr (.incZeroPageX 0x34#8) [0x12#8] ∧
    decode [0xFE#8, 0x34#8, 0x12#8] = .instr (.incAbsoluteX 0x1234#16) [] := by
  decide +kernel

theorem test_decode_brk_implied :
    decode [0x00#8, 0x34#8, 0x12#8] = .instr .brk [0x12#8] := by
  decide +kernel

theorem test_decode_flag_clear_implied :
    decode [0x18#8, 0x34#8, 0x12#8] = .instr .clc [0x34#8, 0x12#8] ∧
    decode [0x58#8, 0x34#8, 0x12#8] = .instr .cli [0x34#8, 0x12#8] ∧
    decode [0xB8#8, 0x34#8, 0x12#8] = .instr .clv [0x34#8, 0x12#8] ∧
    decode [0xD8#8, 0x34#8, 0x12#8] = .instr .cld [0x34#8, 0x12#8] := by
  decide +kernel

theorem test_decode_inc_dec_implied :
    decode [0x88#8, 0x34#8, 0x12#8] = .instr .dey [0x34#8, 0x12#8] ∧
    decode [0xC8#8, 0x34#8, 0x12#8] = .instr .iny [0x34#8, 0x12#8] ∧
    decode [0xCA#8, 0x34#8, 0x12#8] = .instr .dex [0x34#8, 0x12#8] ∧
    decode [0xE8#8, 0x34#8, 0x12#8] = .instr .inx [0x34#8, 0x12#8] := by
  decide +kernel

theorem test_decode_transfer_implied :
    decode [0x8A#8, 0x34#8, 0x12#8] = .instr .txa [0x34#8, 0x12#8] ∧
    decode [0x98#8, 0x34#8, 0x12#8] = .instr .tya [0x34#8, 0x12#8] ∧
    decode [0x9A#8, 0x34#8, 0x12#8] = .instr .txs [0x34#8, 0x12#8] ∧
    decode [0xA8#8, 0x34#8, 0x12#8] = .instr .tay [0x34#8, 0x12#8] ∧
    decode [0xAA#8, 0x34#8, 0x12#8] = .instr .tax [0x34#8, 0x12#8] ∧
    decode [0xBA#8, 0x34#8, 0x12#8] = .instr .tsx [0x34#8, 0x12#8] := by
  decide +kernel

/-- R76: bytes of mnemonics outside the subset, named by 93_implementation_defined.md G7. -/
theorem test_decode_unknown :
    decode [0x4C#8, 0x00#8, 0x90#8] = .unknownOpcode 0x4C#8 ∧ decode [0x40#8] = .unknownOpcode 0x40#8 ∧
    decode [0x69#8, 0x01#8] = .unknownOpcode 0x69#8 ∧ decode [0xEA#8] = .unknownOpcode 0xEA#8 ∧
    decode [0x38#8] = .unknownOpcode 0x38#8 ∧ decode [0x02#8] = .unknownOpcode 0x02#8 := by
  decide +kernel

/-- A list that ends inside the instruction. -/
theorem test_decode_truncated :
    decode [] = .truncated ∧ decode [0xAD#8, 0x34#8] = .truncated ∧ decode [0xA9#8] = .truncated ∧
    decode [0x00#8] = .truncated := by
  decide +kernel

/-- R71: the low byte of an address comes first; BRK's padding is written 0x00 (log entry 8). -/
theorem test_encode :
    encode (.staAbsolute 0x0200#16) = [0x8D#8, 0x00#8, 0x02#8] ∧ encode (.ldaIndirectY 0x20#8) = [0xB1#8, 0x20#8] ∧
    encode .tsx = [0xBA#8] ∧ encode .brk = [0x00#8, 0x00#8] := by
  decide

/-- spec/opcode_table.json's numbering: the first byte is bits 7:0. -/
theorem test_decodeTableWord :
    decodeTableWord 24 0x1234AD = some (.ldaAbsolute 0x1234#16) ∧ decodeTableWord 16 0x34A5 = some (.ldaZeroPage 0x34#8) ∧
    decodeTableWord 8 0xBD = some (.ldaAbsoluteX 0x0000#16) ∧ decodeTableWord 8 0xE8 = some .inx ∧
    decodeTableWord 8 0x00 = some .brk ∧ decodeTableWord 8 0x4C = none := by
  decide +kernel

/-- The first step from reset runs the placed instruction: `LDX #$80`. -/
theorem test_withFetchWord :
    ∃ t, step (State.reset.withFetchWord 16 0x80A2) = .next t ∧ t.x = 0x80#8 ∧ t.pc = 0x8002#16 :=
  of_meets (by decide +kernel)

/-- V1: 256 lookups, 70 implemented, 186 sentinels; no two rows share a byte. -/
theorem test_V1 :
    ((List.range 256).filter fun n => (table (BitVec.ofNat 8 n)).operate != .unimplemented).length = 70 ∧
    ((List.range 256).filter fun n => (table (BitVec.ofNat 8 n)).operate == .unimplemented).length = 186 := by
  decide +kernel

/-! ## The vectors of 95_test_vectors.md that are one step -/

theorem test_V2_zero :
    ∃ t, step (code 0x8000#16 [0xA9#8, 0x00#8] []) = .next t ∧
      t.a = 0x00#8 ∧ t.p = 0x02#8 ∧ t.pc = 0x8002#16 ∧ t.cycles = 2 :=
  of_meets (by decide +kernel)

theorem test_V2_negative :
    ∃ t, step (code 0x8000#16 [0xA9#8, 0x80#8] []) = .next t ∧
      t.a = 0x80#8 ∧ t.p = 0x80#8 :=
  of_meets (by decide +kernel)

theorem test_V3 :
    ∃ t, step { code 0x8000#16 [0xB5#8, 0xFF#8] [(0x0001#16, 0x37#8), (0x0101#16, 0x99#8)] with x := 0x02#8 } = .next t ∧
      t.a = 0x37#8 ∧ t.p = 0x00#8 ∧ t.cycles = 4 :=
  of_meets (by decide +kernel)

theorem test_V4_crossed :
    ∃ t, step { code 0x8000#16 [0xBD#8, 0xFF#8, 0x01#8] [(0x0200#16, 0x05#8)] with x := 0x01#8 } = .next t ∧
      t.a = 0x05#8 ∧ t.cycles = 5 ∧ t.pageCrossed = false :=
  of_meets (by decide +kernel)

theorem test_V4_same_page :
    ∃ t, step { code 0x8000#16 [0xBD#8, 0x00#8, 0x01#8] [(0x0101#16, 0x05#8)] with x := 0x01#8 } = .next t ∧
      t.a = 0x05#8 ∧ t.cycles = 4 :=
  of_meets (by decide +kernel)

theorem test_V5 :
    ∃ t, step (code 0x8000#16 [0x00#8, 0x00#8] [(0xFFFE#16, 0x00#8), (0xFFFF#16, 0x90#8)]) = .next t ∧
      t.pc = 0x9000#16 ∧ t.sp = 0xFA#8 ∧ t.p = 0x04#8 ∧ t.cycles = 7 :=
  of_meets (by decide +kernel)

theorem test_V7_inc :
    ∃ t, step (code 0x8000#16 [0xE6#8, 0x10#8] [(0x0010#16, 0xFF#8)]) = .next t ∧
      t.read 0x0010#16 = 0x00#8 ∧ t.p = 0x02#8 :=
  of_meets (by decide +kernel)

theorem test_V7_dec :
    ∃ t, step (code 0x8000#16 [0xC6#8, 0x10#8] []) = .next t ∧
      t.read 0x0010#16 = 0xFF#8 ∧ t.p = 0x80#8 ∧ t.cycles = 5 :=
  of_meets (by decide +kernel)

theorem test_AM1 :
    ∃ t, step (code 0x8000#16 [0xA5#8, 0x33#8] [(0x0033#16, 0xFF#8)]) = .next t ∧
      t.a = 0xFF#8 ∧ t.p = 0x80#8 ∧ t.cycles = 3 :=
  of_meets (by decide +kernel)

theorem test_AM2 :
    ∃ t, step (code 0x8000#16 [0xAD#8, 0x34#8, 0x12#8] [(0x1234#16, 0x01#8)]) = .next t ∧
      t.a = 0x01#8 ∧ t.p = 0x00#8 :=
  of_meets (by decide +kernel)

theorem test_AM3 :
    ∃ t, step { code 0x8000#16 [0xB9#8, 0x00#8, 0x12#8] [(0x12FF#16, 0x80#8)] with y := 0xFF#8 } = .next t ∧
      t.a = 0x80#8 ∧ t.cycles = 4 :=
  of_meets (by decide +kernel)

theorem test_AM4 :
    ∃ t, step { code 0x8000#16 [0xBD#8, 0xFF#8, 0xFF#8] [(0x0000#16, 0x55#8)] with x := 0x01#8 } = .next t ∧
      t.a = 0x55#8 ∧ t.cycles = 5 :=
  of_meets (by decide +kernel)

theorem test_AM5 :
    ∃ t, step { code 0x8000#16 [0xA1#8, 0x10#8] [(0x0015#16, 0x00#8), (0x0016#16, 0x02#8), (0x0200#16, 0x00#8)] with x := 0x05#8 } = .next t ∧
      t.a = 0x00#8 ∧ t.p = 0x02#8 ∧ t.cycles = 6 :=
  of_meets (by decide +kernel)

theorem test_AM6 :
    ∃ t, step { code 0x8000#16 [0xA1#8, 0xFE#8] [(0x00FF#16, 0x34#8), (0x0000#16, 0x12#8), (0x1234#16, 0x80#8)] with x := 0x01#8 } = .next t ∧
      t.a = 0x80#8 ∧ t.p = 0x80#8 :=
  of_meets (by decide +kernel)

theorem test_AM7 :
    ∃ t, step { code 0x8000#16 [0xB1#8, 0x40#8] [(0x0040#16, 0xF8#8), (0x0041#16, 0x12#8), (0x1308#16, 0x7F#8)] with y := 0x10#8 } = .next t ∧
      t.a = 0x7F#8 ∧ t.p = 0x00#8 ∧ t.cycles = 6 :=
  of_meets (by decide +kernel)

theorem test_AM8 :
    ∃ t, step { code 0x8000#16 [0xB1#8, 0xFF#8] [(0x00FF#16, 0x00#8), (0x0000#16, 0x03#8), (0x0100#16, 0x99#8)] with y := 0x00#8 } = .next t ∧
      t.a = 0x00#8 ∧ t.p = 0x02#8 ∧ t.cycles = 5 :=
  of_meets (by decide +kernel)

theorem test_AM9 :
    ∃ t, step { code 0x8000#16 [0xB6#8, 0xF0#8] [(0x0010#16, 0x42#8)] with y := 0x20#8 } = .next t ∧
      t.x = 0x42#8 ∧ t.p = 0x00#8 :=
  of_meets (by decide +kernel)

theorem test_AM10 :
    ∃ t, step (code 0xFFFF#16 [0xE8#8] []) = .next t ∧
      t.x = 0x01#8 ∧ t.pc = 0x0000#16 :=
  of_meets (by decide +kernel)

theorem test_AM11 :
    ∃ t, step (code 0xFFFF#16 [0xA9#8, 0x80#8] []) = .next t ∧
      t.a = 0x80#8 ∧ t.p = 0x80#8 ∧ t.pc = 0x0001#16 :=
  of_meets (by decide +kernel)

theorem test_LS1 :
    ∃ t, step { code 0x8000#16 [0xA0#8, 0x00#8] [] with p := 0x80#8 } = .next t ∧
      t.y = 0x00#8 ∧ t.p = 0x02#8 :=
  of_meets (by decide +kernel)

theorem test_LS2 :
    ∃ t, step { code 0x8000#16 [0xB4#8, 0x80#8] [(0x0000#16, 0x81#8)] with x := 0x80#8 } = .next t ∧
      t.y = 0x81#8 ∧ t.p = 0x80#8 :=
  of_meets (by decide +kernel)

theorem test_LS3 :
    ∃ t, step { code 0x8000#16 [0xBE#8, 0xFF#8, 0x01#8] [(0x0200#16, 0xFE#8)] with y := 0x01#8 } = .next t ∧
      t.x = 0xFE#8 ∧ t.p = 0x80#8 ∧ t.cycles = 5 :=
  of_meets (by decide +kernel)

theorem test_LS4 :
    ∃ t, step { code 0x8000#16 [0x85#8, 0x00#8] [] with a := 0xAB#8 } = .next t ∧
      t.read 0x0000#16 = 0xAB#8 ∧ t.p = 0x00#8 :=
  of_meets (by decide +kernel)

theorem test_LS5 :
    ∃ t, step { code 0x8000#16 [0x95#8, 0xFF#8] [] with a := 0x11#8, x := 0x01#8 } = .next t ∧
      t.read 0x0000#16 = 0x11#8 ∧ t.cycles = 4 :=
  of_meets (by decide +kernel)

theorem test_LS6 :
    ∃ t, step { code 0x8000#16 [0x99#8, 0x80#8, 0x12#8] [] with a := 0x22#8, y := 0x80#8 } = .next t ∧
      t.read 0x1300#16 = 0x22#8 ∧ t.cycles = 6 :=
  of_meets (by decide +kernel)

theorem test_LS7 :
    ∃ t, step { code 0x8000#16 [0x81#8, 0xFF#8] [(0x00FF#16, 0x00#8), (0x0000#16, 0x04#8)] with a := 0x33#8 } = .next t ∧
      t.read 0x0400#16 = 0x33#8 ∧ t.cycles = 6 :=
  of_meets (by decide +kernel)

theorem test_LS8 :
    ∃ t, step { code 0x8000#16 [0x91#8, 0x10#8] [(0x0010#16, 0xFF#8), (0x0011#16, 0x04#8)] with a := 0x44#8, y := 0x01#8 } = .next t ∧
      t.read 0x0500#16 = 0x44#8 ∧ t.cycles = 7 :=
  of_meets (by decide +kernel)

theorem test_LS9 :
    ∃ t, step { code 0x8000#16 [0x8D#8, 0x00#8, 0x03#8] [] with p := 0x80#8 } = .next t ∧
      t.read 0x0300#16 = 0x00#8 ∧ t.p = 0x80#8 :=
  of_meets (by decide +kernel)

theorem test_LS10 :
    ∃ t, step { code 0x8000#16 [0x8E#8, 0xFF#8, 0xFF#8] [] with x := 0x5A#8 } = .next t ∧
      t.read 0xFFFF#16 = 0x5A#8 ∧ t.cycles = 4 :=
  of_meets (by decide +kernel)

theorem test_LS11 :
    ∃ t, step { code 0x8000#16 [0x94#8, 0xFE#8] [] with x := 0x03#8, y := 0x77#8 } = .next t ∧
      t.read 0x0001#16 = 0x77#8 ∧ t.p = 0x00#8 :=
  of_meets (by decide +kernel)

theorem test_LS12 :
    ∃ t, step { code 0x8000#16 [0x96#8, 0xFE#8] [] with x := 0xFF#8, y := 0x05#8 } = .next t ∧
      t.read 0x0003#16 = 0xFF#8 ∧ t.p = 0x00#8 :=
  of_meets (by decide +kernel)

theorem test_LG1 :
    ∃ t, step { code 0x8000#16 [0x29#8, 0x0F#8] [] with a := 0xF0#8 } = .next t ∧
      t.a = 0x00#8 ∧ t.p = 0x02#8 :=
  of_meets (by decide +kernel)

theorem test_LG2 :
    ∃ t, step { code 0x8000#16 [0x35#8, 0x10#8] [(0x0011#16, 0x80#8)] with a := 0xFF#8, x := 0x01#8 } = .next t ∧
      t.a = 0x80#8 ∧ t.p = 0x80#8 :=
  of_meets (by decide +kernel)

theorem test_LG3 :
    ∃ t, step { code 0x8000#16 [0x31#8, 0x10#8] [(0x0010#16, 0x00#8), (0x0011#16, 0x05#8), (0x0500#16, 0xF0#8)] with a := 0x0F#8 } = .next t ∧
      t.a = 0x00#8 ∧ t.cycles = 5 :=
  of_meets (by decide +kernel)

theorem test_LG4 :
    ∃ t, step { code 0x8000#16 [0x09#8, 0x00#8] [] with p := 0x80#8 } = .next t ∧
      t.a = 0x00#8 ∧ t.p = 0x02#8 :=
  of_meets (by decide +kernel)

theorem test_LG5 :
    ∃ t, step { code 0x8000#16 [0x09#8, 0x80#8] [] with a := 0x01#8 } = .next t ∧
      t.a = 0x81#8 ∧ t.p = 0x80#8 :=
  of_meets (by decide +kernel)

theorem test_LG6 :
    ∃ t, step { code 0x8000#16 [0x1D#8, 0xF0#8, 0x10#8] [(0x1110#16, 0x02#8)] with a := 0x40#8, x := 0x20#8 } = .next t ∧
      t.a = 0x42#8 ∧ t.cycles = 5 :=
  of_meets (by decide +kernel)

theorem test_LG7 :
    ∃ t, step { code 0x8000#16 [0x29#8, 0xFF#8] [] with a := 0x5A#8, p := 0xFF#8 } = .next t ∧
      t.a = 0x5A#8 ∧ t.p = 0x7D#8 :=
  of_meets (by decide +kernel)

theorem test_ID1 :
    ∃ t, step { code 0x8000#16 [0xF6#8, 0xFF#8] [(0x0001#16, 0x7F#8)] with x := 0x02#8 } = .next t ∧
      t.read 0x0001#16 = 0x80#8 ∧ t.p = 0x80#8 :=
  of_meets (by decide +kernel)

theorem test_ID2 :
    ∃ t, step { code 0x8000#16 [0xFE#8, 0xFF#8, 0x12#8] [(0x1300#16, 0xFF#8)] with x := 0x01#8 } = .next t ∧
      t.read 0x1300#16 = 0x00#8 ∧ t.cycles = 8 :=
  of_meets (by decide +kernel)

theorem test_ID3 :
    ∃ t, step (code 0x8000#16 [0xCE#8, 0x00#8, 0x20#8] [(0x2000#16, 0x01#8)]) = .next t ∧
      t.read 0x2000#16 = 0x00#8 ∧ t.p = 0x02#8 :=
  of_meets (by decide +kernel)

theorem test_ID4 :
    ∃ t, step { code 0x8000#16 [0xDE#8, 0x00#8, 0x20#8] [(0x2005#16, 0x81#8)] with x := 0x05#8 } = .next t ∧
      t.read 0x2005#16 = 0x80#8 ∧ t.cycles = 7 :=
  of_meets (by decide +kernel)

theorem test_ID5 :
    ∃ t, step { code 0x8000#16 [0xE8#8] [] with x := 0xFF#8 } = .next t ∧
      t.x = 0x00#8 ∧ t.p = 0x02#8 :=
  of_meets (by decide +kernel)

theorem test_ID6 :
    ∃ t, step (code 0x8000#16 [0xC8#8] []) = .next t ∧
      t.y = 0x01#8 ∧ t.p = 0x00#8 :=
  of_meets (by decide +kernel)

theorem test_ID7 :
    ∃ t, step { code 0x8000#16 [0xCA#8] [] with x := 0x01#8 } = .next t ∧
      t.x = 0x00#8 ∧ t.p = 0x02#8 :=
  of_meets (by decide +kernel)

theorem test_ID8 :
    ∃ t, step (code 0x8000#16 [0x88#8] []) = .next t ∧
      t.y = 0xFF#8 ∧ t.p = 0x80#8 :=
  of_meets (by decide +kernel)

theorem test_ID9 :
    ∃ t, step { code 0x8000#16 [0xE6#8, 0x10#8] [(0x0010#16, 0x7F#8)] with p := 0x41#8 } = .next t ∧
      t.read 0x0010#16 = 0x80#8 ∧ t.p = 0xC1#8 :=
  of_meets (by decide +kernel)

theorem test_TR1 :
    ∃ t, step { code 0x8000#16 [0xAA#8] [] with x := 0x55#8, p := 0x80#8 } = .next t ∧
      t.x = 0x00#8 ∧ t.p = 0x02#8 :=
  of_meets (by decide +kernel)

theorem test_TR2 :
    ∃ t, step { code 0x8000#16 [0xA8#8] [] with a := 0x80#8 } = .next t ∧
      t.y = 0x80#8 ∧ t.p = 0x80#8 :=
  of_meets (by decide +kernel)

theorem test_TR3 :
    ∃ t, step { code 0x8000#16 [0x8A#8] [] with x := 0x01#8, p := 0x82#8 } = .next t ∧
      t.a = 0x01#8 ∧ t.p = 0x00#8 :=
  of_meets (by decide +kernel)

theorem test_TR4 :
    ∃ t, step { code 0x8000#16 [0x98#8] [] with a := 0x12#8 } = .next t ∧
      t.a = 0x00#8 ∧ t.p = 0x02#8 :=
  of_meets (by decide +kernel)

theorem test_TR5 :
    ∃ t, step (code 0x8000#16 [0xBA#8] []) = .next t ∧
      t.x = 0xFD#8 ∧ t.p = 0x80#8 :=
  of_meets (by decide +kernel)

theorem test_TR6 :
    ∃ t, step (code 0x8000#16 [0x9A#8] []) = .next t ∧
      t.sp = 0x00#8 ∧ t.p = 0x00#8 :=
  of_meets (by decide +kernel)

theorem test_TR7 :
    ∃ t, step { code 0x8000#16 [0x9A#8] [] with x := 0x80#8, p := 0x02#8 } = .next t ∧
      t.sp = 0x80#8 ∧ t.p = 0x02#8 :=
  of_meets (by decide +kernel)

theorem test_FC1 :
    ∃ t, step { code 0x8000#16 [0x18#8] [] with p := 0xFF#8 } = .next t ∧
      t.p = 0xFE#8 :=
  of_meets (by decide +kernel)

theorem test_FC2 :
    ∃ t, step { code 0x8000#16 [0xD8#8] [] with p := 0xFF#8 } = .next t ∧
      t.p = 0xF7#8 :=
  of_meets (by decide +kernel)

theorem test_FC3 :
    ∃ t, step { code 0x8000#16 [0x58#8] [] with p := 0xFF#8 } = .next t ∧
      t.p = 0xFB#8 :=
  of_meets (by decide +kernel)

theorem test_FC4 :
    ∃ t, step { code 0x8000#16 [0xB8#8] [] with p := 0xFF#8 } = .next t ∧
      t.p = 0xBF#8 :=
  of_meets (by decide +kernel)

theorem test_FC5 :
    ∃ t, step (code 0x8000#16 [0x18#8] []) = .next t ∧
      t.p = 0x00#8 ∧ t.cycles = 2 :=
  of_meets (by decide +kernel)

theorem test_BK1 :
    ∃ t, step { code 0x8000#16 [0x00#8, 0xAA#8] [(0xFFFE#16, 0x34#8), (0xFFFF#16, 0x12#8)] with sp := 0x01#8, p := 0x01#8 } = .next t ∧
      t.sp = 0xFE#8 ∧ t.p = 0x05#8 ∧ t.pc = 0x1234#16 :=
  of_meets (by decide +kernel)

theorem test_BK2 :
    ∃ t, step (code 0xFFFF#16 [0x00#8] []) = .next t ∧
      t.sp = 0xFA#8 ∧ t.p = 0x04#8 ∧ t.pc = 0x0000#16 ∧ t.read 0x01FC#16 = 0x01#8 :=
  of_meets (by decide +kernel)

theorem test_BK3 :
    ∃ t, step { code 0x8000#16 [0x00#8, 0x00#8] [(0xFFFE#16, 0x00#8), (0xFFFF#16, 0x90#8)] with p := 0xFF#8 } = .next t ∧
      t.sp = 0xFA#8 ∧ t.p = 0xFF#8 ∧ t.pc = 0x9000#16 ∧ t.read 0x01FB#16 = 0xFF#8 :=
  of_meets (by decide +kernel)

theorem test_UN1 :
    ∃ t, step { code 0x8000#16 [0x4C#8, 0x00#8, 0x90#8] [] with a := 0x01#8, cycles := 10 } = .next t ∧
      t.pc = 0x8000#16 ∧ t.halted = true ∧ t.haltOpcode = 0x4C#8 ∧ t.cycles = 10 :=
  of_meets (by decide +kernel)

theorem test_UN4 :
    ∃ t, step (code 0x8000#16 [0x02#8] []) = .next t ∧
      t.pc = 0x8000#16 ∧ t.halted = true ∧ t.haltOpcode = 0x02#8 :=
  of_meets (by decide +kernel)

/-! ## The reads and writes of the same vectors, in order (R60) -/

/-- V3, V5, V7_inc, AM1. -/
theorem test_busTrace_0 :
    busTrace { code 0x8000#16 [0xB5#8, 0xFF#8] [(0x0001#16, 0x37#8), (0x0101#16, 0x99#8)] with x := 0x02#8 } =
      [.read 0x8000#16, .read 0x8001#16, .read 0x0001#16] ∧
    busTrace (code 0x8000#16 [0x00#8, 0x00#8] [(0xFFFE#16, 0x00#8), (0xFFFF#16, 0x90#8)]) =
      [.read 0x8000#16, .write 0x01FD#16 0x80#8, .write 0x01FC#16 0x02#8, .write 0x01FB#16 0x30#8, .read 0xFFFE#16, .read 0xFFFF#16] ∧
    busTrace (code 0x8000#16 [0xE6#8, 0x10#8] [(0x0010#16, 0xFF#8)]) =
      [.read 0x8000#16, .read 0x8001#16, .read 0x0010#16, .write 0x0010#16 0x00#8] ∧
    busTrace (code 0x8000#16 [0xA5#8, 0x33#8] [(0x0033#16, 0xFF#8)]) =
      [.read 0x8000#16, .read 0x8001#16, .read 0x0033#16] := by
  decide +kernel

/-- AM2, AM3, AM4, AM5. -/
theorem test_busTrace_1 :
    busTrace (code 0x8000#16 [0xAD#8, 0x34#8, 0x12#8] [(0x1234#16, 0x01#8)]) =
      [.read 0x8000#16, .read 0x8001#16, .read 0x8002#16, .read 0x1234#16] ∧
    busTrace { code 0x8000#16 [0xB9#8, 0x00#8, 0x12#8] [(0x12FF#16, 0x80#8)] with y := 0xFF#8 } =
      [.read 0x8000#16, .read 0x8001#16, .read 0x8002#16, .read 0x12FF#16] ∧
    busTrace { code 0x8000#16 [0xBD#8, 0xFF#8, 0xFF#8] [(0x0000#16, 0x55#8)] with x := 0x01#8 } =
      [.read 0x8000#16, .read 0x8001#16, .read 0x8002#16, .read 0x0000#16] ∧
    busTrace { code 0x8000#16 [0xA1#8, 0x10#8] [(0x0015#16, 0x00#8), (0x0016#16, 0x02#8), (0x0200#16, 0x00#8)] with x := 0x05#8 } =
      [.read 0x8000#16, .read 0x8001#16, .read 0x0015#16, .read 0x0016#16, .read 0x0200#16] := by
  decide +kernel

/-- AM6, AM7, AM8, AM9. -/
theorem test_busTrace_2 :
    busTrace { code 0x8000#16 [0xA1#8, 0xFE#8] [(0x00FF#16, 0x34#8), (0x0000#16, 0x12#8), (0x1234#16, 0x80#8)] with x := 0x01#8 } =
      [.read 0x8000#16, .read 0x8001#16, .read 0x00FF#16, .read 0x0000#16, .read 0x1234#16] ∧
    busTrace { code 0x8000#16 [0xB1#8, 0x40#8] [(0x0040#16, 0xF8#8), (0x0041#16, 0x12#8), (0x1308#16, 0x7F#8)] with y := 0x10#8 } =
      [.read 0x8000#16, .read 0x8001#16, .read 0x0040#16, .read 0x0041#16, .read 0x1308#16] ∧
    busTrace { code 0x8000#16 [0xB1#8, 0xFF#8] [(0x00FF#16, 0x00#8), (0x0000#16, 0x03#8), (0x0100#16, 0x99#8)] with y := 0x00#8 } =
      [.read 0x8000#16, .read 0x8001#16, .read 0x00FF#16, .read 0x0000#16, .read 0x0300#16] ∧
    busTrace { code 0x8000#16 [0xB6#8, 0xF0#8] [(0x0010#16, 0x42#8)] with y := 0x20#8 } =
      [.read 0x8000#16, .read 0x8001#16, .read 0x0010#16] := by
  decide +kernel

/-- AM10, AM11, LS4, LS7. -/
theorem test_busTrace_3 :
    busTrace (code 0xFFFF#16 [0xE8#8] []) =
      [.read 0xFFFF#16] ∧
    busTrace (code 0xFFFF#16 [0xA9#8, 0x80#8] []) =
      [.read 0xFFFF#16, .read 0x0000#16] ∧
    busTrace { code 0x8000#16 [0x85#8, 0x00#8] [] with a := 0xAB#8 } =
      [.read 0x8000#16, .read 0x8001#16, .write 0x0000#16 0xAB#8] ∧
    busTrace { code 0x8000#16 [0x81#8, 0xFF#8] [(0x00FF#16, 0x00#8), (0x0000#16, 0x04#8)] with a := 0x33#8 } =
      [.read 0x8000#16, .read 0x8001#16, .read 0x00FF#16, .read 0x0000#16, .write 0x0400#16 0x33#8] := by
  decide +kernel

/-- ID1, BK1, UN1. -/
theorem test_busTrace_4 :
    busTrace { code 0x8000#16 [0xF6#8, 0xFF#8] [(0x0001#16, 0x7F#8)] with x := 0x02#8 } =
      [.read 0x8000#16, .read 0x8001#16, .read 0x0001#16, .write 0x0001#16 0x80#8] ∧
    busTrace { code 0x8000#16 [0x00#8, 0xAA#8] [(0xFFFE#16, 0x34#8), (0xFFFF#16, 0x12#8)] with sp := 0x01#8, p := 0x01#8 } =
      [.read 0x8000#16, .write 0x0101#16 0x80#8, .write 0x0100#16 0x02#8, .write 0x01FF#16 0x31#8, .read 0xFFFE#16, .read 0xFFFF#16] ∧
    busTrace { code 0x8000#16 [0x4C#8, 0x00#8, 0x90#8] [] with a := 0x01#8, cycles := 10 } =
      [.read 0x8000#16] := by
  decide +kernel

/-- UN2: a step of a halted core changes nothing and touches nothing. -/
theorem test_UN2 :
    ∃ t, step { code 0x8000#16 [0xA9#8, 0x05#8] [] with halted := true, haltOpcode := 0x4C#8 } = .next t ∧
      t.a = 0x00#8 ∧ t.halted = true ∧ t.haltOpcode = 0x4C#8 :=
  of_meets (by decide +kernel)

/-- UN3: reset ends the halt and keeps memory. -/
theorem test_UN3 :
    ∃ t, hostAct (.reset 0x8003#16) { code 0x8000#16 [0x4C#8] [] with a := 0x01#8, halted := true } = .next t ∧
      t.a = 0x00#8 ∧ t.pc = 0x8003#16 ∧ t.halted = false ∧ t.read 0x8000#16 = 0x4C#8 :=
  of_meets (by decide +kernel)

/-- The reset values of R43. -/
theorem test_reset :
    State.reset.a = 0x00#8 ∧ State.reset.x = 0x00#8 ∧ State.reset.y = 0x00#8 ∧ State.reset.p = 0x00#8 ∧
    State.reset.sp = 0xFD#8 ∧ State.reset.cycles = 0 ∧ State.reset.halted = false ∧
    State.reset.haltOpcode = 0x00#8 ∧ State.reset.mem = [] := by
  decide

/-- R58, R59: a push and a pop around the bottom of the stack page. -/
theorem test_pop_after_push :
    popValue (push 0x5A#8 { State.reset with sp := 0x00#8 }) = 0x5A#8 ∧
    (popState (push 0x5A#8 { State.reset with sp := 0x00#8 })).sp = 0x00#8 := by
  decide +kernel

/-- Writing what an unlisted address reads as removes the entry. -/
theorem test_memory_canonical :
    (Memory.write [(5, 0x01#8), (9, 0x02#8)] 0x0005#16 0x00#8) = [(9, 0x02#8)] ∧
    (Memory.write [(5, 0x01#8), (9, 0x02#8)] 0x0007#16 0x03#8) = [(5, 0x01#8), (7, 0x03#8), (9, 0x02#8)] ∧
    Memory.wf [(9, 0x02#8), (5, 0x01#8)] = false ∧ Memory.wf [(5, 0x00#8)] = false ∧
    Memory.wf [(65536, 0x01#8)] = false := by
  decide +kernel

/-! ## Witnesses: for every obligation with hypotheses, operands and states that meet them all, clause by clause.
An obligation that is not named here has none. -/

/-- Every form of LDA meets the hypothesis. -/
theorem witness_LoadAccumulatorResult :
    ∀ i ∈ [Instr.ldaImmediate 0x80#8, .ldaZeroPage 0xFF#8, .ldaZeroPageX 0xFF#8, .ldaAbsolute 0xFFFF#16, .ldaAbsoluteX 0xFFFF#16, .ldaAbsoluteY 0xFFFF#16, .ldaIndirectX 0xFF#8, .ldaIndirectY 0xFF#8],
      i.operate = .lda :=
  by decide

/-- Every form of LDX meets the hypothesis. -/
theorem witness_LoadIndexXResult :
    ∀ i ∈ [Instr.ldxImmediate 0x00#8, .ldxZeroPage 0xFF#8, .ldxZeroPageY 0xFF#8, .ldxAbsolute 0xFFFF#16, .ldxAbsoluteY 0xFFFF#16],
      i.operate = .ldx :=
  by decide

/-- Every form of LDY meets the hypothesis. -/
theorem witness_LoadIndexYResult :
    ∀ i ∈ [Instr.ldyImmediate 0x00#8, .ldyZeroPage 0xFF#8, .ldyZeroPageX 0xFF#8, .ldyAbsolute 0xFFFF#16, .ldyAbsoluteX 0xFFFF#16],
      i.operate = .ldy :=
  by decide

/-- Every form of STA meets the hypothesis. -/
theorem witness_StoreAccumulatorResult :
    ∀ i ∈ [Instr.staZeroPage 0x00#8, .staZeroPageX 0xFF#8, .staAbsolute 0xFFFF#16, .staAbsoluteX 0xFFFF#16, .staAbsoluteY 0xFFFF#16, .staIndirectX 0xFF#8, .staIndirectY 0xFF#8],
      i.operate = .sta :=
  by decide

/-- Every form of STX meets the hypothesis. -/
theorem witness_StoreXResult :
    ∀ i ∈ [Instr.stxZeroPage 0xFF#8, .stxZeroPageY 0xFF#8, .stxAbsolute 0xFFFF#16],
      i.operate = .stx :=
  by decide

/-- Every form of STY meets the hypothesis. -/
theorem witness_StoreYResult :
    ∀ i ∈ [Instr.styZeroPage 0xFF#8, .styZeroPageX 0xFF#8, .styAbsolute 0xFFFF#16],
      i.operate = .sty :=
  by decide

/-- Every form of AND meets the hypothesis. -/
theorem witness_LogicalAndResult :
    ∀ i ∈ [Instr.andImmediate 0x0F#8, .andZeroPage 0xFF#8, .andZeroPageX 0xFF#8, .andAbsolute 0xFFFF#16, .andAbsoluteX 0xFFFF#16, .andAbsoluteY 0xFFFF#16, .andIndirectX 0xFF#8, .andIndirectY 0xFF#8],
      i.operate = .and :=
  by decide

/-- Every form of ORA meets the hypothesis. -/
theorem witness_LogicalOrResult :
    ∀ i ∈ [Instr.oraImmediate 0x80#8, .oraZeroPage 0xFF#8, .oraZeroPageX 0xFF#8, .oraAbsolute 0xFFFF#16, .oraAbsoluteX 0xFFFF#16, .oraAbsoluteY 0xFFFF#16, .oraIndirectX 0xFF#8, .oraIndirectY 0xFF#8],
      i.operate = .ora :=
  by decide

/-- Every form of INC meets the hypothesis. -/
theorem witness_IncrementMemoryResult :
    ∀ i ∈ [Instr.incZeroPage 0xFF#8, .incZeroPageX 0xFF#8, .incAbsolute 0xFFFF#16, .incAbsoluteX 0xFFFF#16],
      i.operate = .inc :=
  by decide

/-- Every form of DEC meets the hypothesis. -/
theorem witness_DecrementMemoryResult :
    ∀ i ∈ [Instr.decZeroPage 0x00#8, .decZeroPageX 0xFF#8, .decAbsolute 0xFFFF#16, .decAbsoluteX 0xFFFF#16],
      i.operate = .dec :=
  by decide

/-- `ORA #$80` at reset meets the second clause. -/
theorem witness_LogicalOrResult_negative :
    ∃ t, exec (.oraImmediate 0x80#8) State.reset = .next t ∧ (operandByte (.immediate 0x80#8) State.reset).msb = true :=
  of_meets (by decide +kernel)

/-- TXS at reset meets the second clause. -/
theorem witness_TransferToStackPointerResult :
    ∃ t, exec .txs State.reset = .next t ∧ t.sp = 0x00#8 :=
  of_meets (by decide +kernel)

/-- The three ranges of v at their ends. -/
theorem witness_SetZNRule :
    (∀ v ∈ [0x00#8], v = 0x00#8) ∧ (∀ v ∈ [0x80#8, 0xFF#8], 0x80 ≤ v.toNat) ∧
    (∀ v ∈ [0x01#8, 0x7F#8], 0 < v.toNat ∧ v.toNat < 0x80) :=
  by decide

/-- A state with SP 0x00. -/
theorem witness_PushRule :
    State.sp { State.reset with sp := 0x00#8 } = 0x00#8 :=
  rfl

/-- A canonical memory. -/
theorem witness_PopReturnsPushedByte :
    State.reset.mem.wf = true :=
  rfl

/-- Base 0xFFFF indexed by 0x01 and by 0xFF wraps, clause by clause. -/
theorem witness_AbsoluteAddressing :
    (0x0000#16).toNat = ((0xFF#8).toNat * 256 + (0xFF#8).toNat + (0x01#8).toNat) % 65536 ∧
    (0x00FE#16).toNat = ((0xFF#8).toNat * 256 + (0xFF#8).toNat + (0xFF#8).toNat) % 65536 :=
  by decide

/-- The pointer at 0xFF of both clauses: (0xFE,X) with X 1, and (0xFF),Y. -/
theorem witness_IndirectAddressing :
    (0x00FF#16).toNat = ((0xFE#8).toNat + (0x01#8).toNat) % 256 ∧
    (0x0000#16).toNat = ((0xFE#8).toNat + (0x01#8).toNat + 1) % 256 ∧
    (0x00FF#16).toNat = (0xFF#8).toNat ∧ (0x0000#16).toNat = ((0xFF#8).toNat + 1) % 256 :=
  by decide

/-- A mode with an address, an Immediate and Implied. -/
theorem witness_OperandValueByKind :
    (Operand.indirectY 0xFF#8).mode.hasAddress = true ∧ (Operand.zeroPage 0x00#8).mode.hasAddress = true ∧
    (∃ o imm, o = Operand.immediate imm ∧ imm = 0xFF#8) ∧ (∃ o, o = Operand.implied) :=
  ⟨rfl, rfl, ⟨_, _, rfl, rfl⟩, ⟨_, rfl⟩⟩

/-- A decoded word for the first clause of `EncodedAs`; its second ranges over the listed rows. -/
theorem witness_OpcodeMapOfEveryMnemonic :
    (instrAt? 0xA9#8 0xFF#8 0x00#8 = some (.ldaImmediate 0xFF#8) ∧ (Instr.ldaImmediate 0xFF#8).operate = .lda) ∧
    (instrAt? 0x00#8 0xFF#8 0x00#8 = some .brk ∧ Instr.brk.operate = .brk) :=
  by decide +kernel

/-- A sentinel byte and a listed byte. -/
theorem witness_DecoderFollowsTable :
    table 0x02#8 = sentinel ∧ table 0x00#8 ≠ sentinel ∧ table 0xFE#8 ≠ sentinel :=
  by decide +kernel

/-- An instruction other than BRK, and BRK with a padding byte that is not 0x00. -/
theorem witness_DecodedBytesAreTheEncoding :
    (decode [0xBD#8, 0xFF#8, 0x01#8, 0xEA#8] = .instr (.ldaAbsoluteX 0x01FF#16) [0xEA#8] ∧
      Instr.ldaAbsoluteX 0x01FF#16 ≠ .brk) ∧ decode [0x00#8, 0xEA#8] = .instr .brk [] :=
  by decide +kernel

/-- `INX` at 0xFFFF: the window wraps. -/
theorem witness_StepRunsDecodedInstruction :
    (code 0xFFFF#16 [0xE8#8] []).halted = false ∧
    decode [(code 0xFFFF#16 [0xE8#8] []).read 0xFFFF#16, (code 0xFFFF#16 [0xE8#8] []).read 0x0000#16,
      (code 0xFFFF#16 [0xE8#8] []).read 0x0001#16] = .instr .inx [0x00#8, 0x00#8] :=
  by decide +kernel

/-- A three-byte word. -/
theorem witness_PlacedWordRunsNext :
    State.reset.mem.wf = true ∧ decodeTableWord 24 0x1234AD = some (.ldaAbsolute 0x1234#16) :=
  by decide +kernel

/-- Byte 0xFF at reset's PC. -/
theorem witness_UnknownOpcodeHalts :
    (code 0x8000#16 [0xFF#8] []).halted = false ∧
    (code 0x8000#16 [0xFF#8] []).read (code 0x8000#16 [0xFF#8] []).pc ∉ opcodeRows.map (·.1) :=
  by decide +kernel

/-- A halted state. -/
theorem witness_HaltIsSticky :
    State.halted { State.reset with halted := true } = true :=
  rfl

/-- A step that halts and changes haltOpcode, and a step of a halted core. -/
theorem witness_HaltOnlyByUnknownOpcode :
    (∃ t, step (code 0x8000#16 [0x4C#8] []) = .next t ∧ (code 0x8000#16 [0x4C#8] []).halted = false ∧ t.halted = true ∧
      t.haltOpcode ≠ (code 0x8000#16 [0x4C#8] []).haltOpcode) ∧
    (∃ t, step { State.reset with halted := true } = .next t ∧ State.halted { State.reset with halted := true } = true) :=
  ⟨of_meets (by decide +kernel), of_meets (by decide +kernel)⟩

/-- A halted core, an unknown opcode, and an instruction with a crossing. -/
theorem witness_CyclesPerStep :
    (∃ t, step { State.reset with halted := true } = .next t ∧ State.halted { State.reset with halted := true } = true) ∧
    (∃ t, step (code 0x8000#16 [0x02#8] []) = .next t ∧
      (code 0x8000#16 [0x02#8] []).read 0x8000#16 ∉ opcodeRows.map (·.1)) ∧
    (∃ t, step { code 0x8000#16 [0xFE#8, 0xFF#8, 0x12#8] [] with x := 0x01#8 } = .next t ∧ t.cycles = 8 ∧
      fetchInstr { code 0x8000#16 [0xFE#8, 0xFF#8, 0x12#8] [] with x := 0x01#8 } = some (.incAbsoluteX 0x12FF#16)) :=
  ⟨of_meets (by decide +kernel), of_meets (by decide +kernel), of_meets (by decide +kernel)⟩

/-- No steps, and one. -/
theorem witness_CyclesNeverDecrease :
    (∃ t, Host.Core.run Sys2Proof.core 0 State.reset = .next t ∧ t = State.reset) ∧
    (∃ t, Host.Core.run Sys2Proof.core 1 (code 0x8000#16 [0xE8#8] []) = .next t ∧ t.cycles = 2) :=
  ⟨⟨_, rfl, rfl⟩, of_meets (by decide +kernel)⟩

/-- A memory that lists a byte. -/
theorem witness_ResetMeetsInvariant :
    (code 0x8000#16 [0xE8#8] []).mem.wf = true ∧ (code 0x8000#16 [0xE8#8] []).mem ≠ [] :=
  by decide +kernel

/-- A store from a state with the invariant. -/
theorem witness_StepKeepsInvariant :
    (code 0x8000#16 [0x85#8, 0x10#8] []).Inv ∧
    ∃ t, step { code 0x8000#16 [0x85#8, 0x10#8] [] with a := 0xAB#8 } = .next t ∧ t.read 0x0010#16 = 0xAB#8 :=
  ⟨⟨by decide +kernel, rfl⟩, of_meets (by decide +kernel)⟩

/-- Each listed flag still set after a step from P 0xFF, and a step from P with all of them clear. -/
theorem witness_NeverSetFlagsStayClear :
    (∃ t, step { code 0x8000#16 [0xE8#8] [] with p := 0xFF#8 } = .next t ∧
      ∀ f ∈ [Flag.carry, Flag.decimal, Flag.brk, Flag.unused, Flag.overflow], flagOf f t.p = true) ∧
    (State.p { State.reset with p := 0x86#8 } &&& neverSetMask = 0x00#8) ∧
    (∃ t, Host.Core.run Sys2Proof.core 1 { code 0x8000#16 [0xE8#8] [] with p := 0x86#8 } = .next t ∧ t.p = 0x04#8) :=
  ⟨of_meets (by decide +kernel), by decide, of_meets (by decide +kernel)⟩

/-- Each host action from a state with the invariant and the five flags clear; and a reachable state, the host writing an
instruction at reset's PC and the core running it. -/
theorem witness_ReachableStatesAreSound :
    (State.reset.Inv ∧ State.reset.p &&& neverSetMask = 0x00#8) ∧
    (∃ t, hostAct .step State.reset = .next t ∧ t.sp = 0xFA#8) ∧
    (∃ t, hostAct (.reset 0xFFFF#16) State.reset = .next t ∧ t.pc = 0xFFFF#16) ∧
    (∃ t, hostAct (.writeMemory 0xFFFF#16 0x90#8) State.reset = .next t ∧ t.read 0xFFFF#16 = 0x90#8) ∧
    ∃ s, Reachable s ∧ s.x = 0x01#8 :=
  ⟨⟨⟨rfl, rfl⟩, by decide⟩, of_meets (by decide +kernel), of_meets (by decide +kernel), of_meets (by decide +kernel),
    (of_meets (P := fun t => t.x = 0x01#8)
      (r := hostRun [.writeMemory 0x8000#16 0xE8#8, .step] State.reset) (by decide +kernel)).elim
      fun s h => ⟨s, ⟨_, h.1⟩, h.2⟩⟩

/-- BRK sets I from clear, CLI clears it from set. -/
theorem witness_InterruptDisableSetOnlyByBrk :
    (∃ t, step (code 0x8000#16 [0x00#8] []) = .next t ∧ flagOf .interruptDisable (code 0x8000#16 [0x00#8] []).p = false ∧
      flagOf .interruptDisable t.p = true) ∧
    (∃ t, step { code 0x8000#16 [0x58#8] [] with p := 0x04#8 } = .next t ∧
      flagOf .interruptDisable 0x04#8 = true ∧ flagOf .interruptDisable t.p = false) :=
  ⟨of_meets (by decide +kernel), of_meets (by decide +kernel)⟩

/-- STA meets the four clauses. -/
theorem witness_RegisterFrame :
    ∃ t, exec (.staZeroPage 0x10#8) State.reset = .next t ∧
      Operate.sta ∉ [Operate.lda, .and, .ora, .txa, .tya] ∧ Operate.sta ∉ [Operate.ldx, .inx, .dex, .tax, .tsx] ∧
      Operate.sta ∉ [Operate.ldy, .iny, .dey, .tay] ∧ Operate.sta ∉ [Operate.txs, .brk] :=
  of_meets (by decide +kernel)

/-- INX has a result, TXS has none and clears no flag. -/
theorem witness_FlagFrame :
    (∃ t, exec .inx State.reset = .next t ∧ resultOf .inx State.reset = some 0x01#8) ∧
    (∃ t, exec .txs State.reset = .next t ∧ resultOf .txs State.reset = none) :=
  ⟨of_meets (by decide +kernel), of_meets (by decide +kernel)⟩

/-- A store and an address outside it, BRK and an address outside its frame, and a form that stores nothing. -/
theorem witness_MemoryFrame :
    (∃ t, exec (.staZeroPage 0x10#8) State.reset = .next t ∧
      storedByte (.staZeroPage 0x10#8) State.reset = some 0x00#8 ∧ State.reset.mem.wf = true ∧
      (0x0011#16 : Addr) ≠ effectiveAddress (.zeroPage 0x10#8) State.reset) ∧
    (∃ t, exec .brk State.reset = .next t ∧ (0x01FE#16 : Addr) ≠ stackAddr State.reset.sp ∧
      (0x01FE#16 : Addr) ≠ stackAddr (State.reset.sp - 1) ∧ (0x01FE#16 : Addr) ≠ stackAddr (State.reset.sp - 2)) ∧
    (∃ t, exec .inx State.reset = .next t ∧ storedByte .inx State.reset = none ∧ Instr.inx ≠ .brk) :=
  ⟨of_meets (by decide +kernel), of_meets (by decide +kernel), of_meets (by decide +kernel)⟩

/-- STA and then LDA by another mode at one address, A 0x80. -/
theorem witness_StoreThenLoadRoundTrip :
    ∃ t u, exec (.staAbsolute 0x0010#16) { State.reset with a := 0x80#8 } = .next t ∧ exec (.ldaZeroPage 0x10#8) t = .next u ∧
      State.reset.mem.wf = true ∧ (Instr.staAbsolute 0x0010#16).operate = .sta ∧
      (Instr.ldaZeroPage 0x10#8).operate = .lda ∧ (Instr.ldaZeroPage 0x10#8).operand.mode ≠ .immediate ∧
      effectiveAddress (Instr.ldaZeroPage 0x10#8).operand t =
        effectiveAddress (Instr.staAbsolute 0x0010#16).operand { State.reset with a := 0x80#8 } :=
  ⟨_, _, exec_eq_run _ _, exec_eq_run _ _, rfl, rfl, rfl, by decide, rfl⟩

/-- A BRK step. -/
theorem witness_BusTraceIsTheMemoryEffect :
    ∃ t, step (code 0x8000#16 [0x00#8] []) = .next t ∧ t.read 0x01FD#16 = 0x80#8 :=
  of_meets (by decide +kernel)

/-- A halted core, an unknown opcode, an instruction that stores, one that stores nothing, and BRK. -/
theorem witness_AccessOrder :
    State.halted { State.reset with halted := true } = true ∧
    ((code 0x8000#16 [0x02#8] []).halted = false ∧ fetchInstr (code 0x8000#16 [0x02#8] []) = none) ∧
    ((code 0x8000#16 [0x91#8, 0xFF#8] []).halted = false ∧
      fetchInstr (code 0x8000#16 [0x91#8, 0xFF#8] []) = some (.staIndirectY 0xFF#8) ∧
      storedByte (.staIndirectY 0xFF#8) (code 0x8000#16 [0x91#8, 0xFF#8] []) = some 0x00#8) ∧
    (fetchInstr (code 0x8000#16 [0xE8#8] []) = some .inx ∧ storedByte .inx (code 0x8000#16 [0xE8#8] []) = none) ∧
    fetchInstr (code 0x8000#16 [0x00#8] []) = some .brk :=
  by decide +kernel

/-- R60's operand, pointer and value addresses in numbers, at the ends of their ranges (R95, R104, R105). -/
theorem test_access_addresses :
    operandAddrs (.absoluteX 0x0000#16) 0xFFFE#16 = [0xFFFF#16, 0x0000#16] ∧
    operandAddrs .implied 0x8000#16 = [] ∧
    pointerAddrs (.indirectX 0xFE#8) { State.reset with x := 0x01#8 } = [0x00FF#16, 0x0000#16] ∧
    pointerAddrs (.indirectY 0xFF#8) State.reset = [0x00FF#16, 0x0000#16] ∧
    valueAddrs (.incZeroPage 0x10#8) State.reset = [0x0010#16] ∧ valueAddrs (.staZeroPage 0x10#8) State.reset = [] ∧
    valueAddrs (.ldaImmediate 0x10#8) State.reset = [] ∧ valueAddrs .inx State.reset = [] := by
  decide

/-- `STA $9000` at 0x8000, about to store `v`. -/
def storing (v : Byte) : State := { code 0x8000#16 [0x8D#8, 0x00#8, 0x90#8] [] with a := v }

/-- The state that step leaves. -/
def stored (v : Byte) : State := transact (table 0x8D#8) (.absolute 0x9000#16) handleSta (storing v)

/-- A store, and then: the stored byte fetched as an unknown opcode, as an opcode, as either operand byte, and read as
an operand value; and a BRK, whose pushes are writes too. -/
theorem witness_FetchSeesEarlierStore :
    ((storing 0x02#8).mem.wf = true ∧ step (storing 0x02#8) = .next (stored 0x02#8) ∧
      Access.write 0x9000#16 0x02#8 ∈ busTrace (storing 0x02#8) ∧ (0x02#8 : Byte) ∉ opcodeRows.map (·.1)) ∧
    (step (storing 0xE8#8) = .next (stored 0xE8#8) ∧ (0xE8#8 : Byte) ∈ opcodeRows.map (·.1)) ∧
    (∀ u ∈ [{ stored 0xE8#8 with pc := 0x9000#16 }], u.mem = (stored 0xE8#8).mem ∧ u.halted = false) ∧
    fetchInstr { stored 0x12#8 with pc := 0x8FFF#16, mem := (stored 0x12#8).mem.write 0x8FFF#16 0xA9#8 } =
      some (.ldaImmediate 0x12#8) ∧
    fetchInstr { stored 0x12#8 with pc := 0x8FFE#16, mem := (stored 0x12#8).mem.write 0x8FFE#16 0xAD#8 } =
      some (.ldaAbsolute 0x1200#16) ∧
    effectiveAddress (.absolute 0x9000#16) (stored 0x12#8) = 0x9000#16 ∧
    Access.write 0x01FC#16 0x02#8 ∈ busTrace (code 0x8000#16 [0x00#8] []) :=
  ⟨⟨by decide +kernel, step_run (by decide +kernel) (i := .staAbsolute 0x9000#16) (by decide +kernel), by decide +kernel,
    by decide +kernel⟩, ⟨step_run (by decide +kernel) (i := .staAbsolute 0x9000#16) (by decide +kernel), by decide +kernel⟩,
    by decide +kernel, by decide +kernel, by decide +kernel, by decide +kernel, by decide +kernel⟩

/-- An instruction other than BRK, and BRK, from reset. -/
theorem witness_StatusNeverSteersExecution :
    (∃ t, exec .inx State.reset = .next t ∧ Instr.inx ≠ .brk) ∧ (∃ t, exec .brk State.reset = .next t ∧ t.sp = 0xFA#8) :=
  ⟨of_meets (by decide +kernel), of_meets (by decide +kernel)⟩

/-- A step that halts, a step of a halted core, a step that runs an instruction, and exec. -/
theorem witness_CountersNeverSteerExecution :
    (∃ t, step (code 0x8000#16 [0x02#8] []) = .next t ∧ (code 0x8000#16 [0x02#8] []).halted = false ∧ t.halted = true) ∧
    (∃ t, step { State.reset with halted := true } = .next t ∧ State.halted { State.reset with halted := true } = true) ∧
    (∃ t, step (code 0x8000#16 [0xE8#8] []) = .next t ∧ t.halted = false) ∧
    (∃ t, exec .inx State.reset = .next t ∧ t.x = 0x01#8) :=
  ⟨of_meets (by decide +kernel), of_meets (by decide +kernel), of_meets (by decide +kernel), of_meets (by decide +kernel)⟩

/-- A running core at 0xFFFF, whose PC wraps. -/
theorem witness_PcAtStepEnd :
    ∃ t, step (code 0xFFFF#16 [0xE8#8] []) = .next t ∧ (code 0xFFFF#16 [0xE8#8] []).halted = false :=
  of_meets (by decide +kernel)

/-- A canonical memory with bytes at both ends of the space. -/
theorem witness_MemoryReadAfterWrite :
    Memory.wf [(0, 0x01#8), (65535, 0xFF#8)] = true :=
  by decide

/-- Two canonical memories, and equal reads. -/
theorem witness_MemoryReadsDetermineIt :
    Memory.wf [(0, 0x01#8), (65535, 0xFF#8)] = true ∧
    (∀ a : Addr, Memory.read [(0, 0x01#8)] a = Memory.read (Memory.write [] 0x0000#16 0x01#8) a) :=
  ⟨by decide, fun _ => rfl⟩

/-- Nested BRKs from reset, SP three lower with each. -/
theorem nested_from_reset (n : Nat) :
    NestedBrk n State.reset { State.reset with sp := 0xFD#8 - BitVec.ofNat 8 (3 * n) } := by
  induction n with
  | zero => exact (BitVec.sub_zero (x := 0xFD#8)).trans rfl
  | succ n ih =>
    refine ⟨_, _, ih, exec_eq_run _ _, ?_⟩
    rw [exec_next (exec_eq_run .brk _), account_eq]
    simp only [show Instr.operate .brk = .brk from rfl, handlerOf_brk_eq, handlerState_eq, BitVec.sub_sub]
    congr 1
    apply BitVec.eq_of_toNat_eq
    simp only [BitVec.toNat_ofNat, BitVec.toNat_add, show BitVec.toNat (1 : Byte) = 1 from rfl]
    omega

/-- 85 nested BRKs from reset, with canonical memory; a list of 256 bytes, and addresses below and above the stack page. -/
theorem witness_BrkNestingWrapsStackPage :
    (∃ u, NestedBrk 85 State.reset u ∧ u.mem.wf = true ∧ u.sp = 0xFE#8) ∧
    (List.replicate 256 (0x55#8 : Byte)).length = 256 ∧ (0x00FF#16).toNat < 0x0100 ∧ 0x01FF < (0x0200#16).toNat :=
  ⟨⟨_, nested_from_reset 85, rfl, by decide⟩, List.length_replicate, by decide, by decide⟩

/-- A host write and another address; a reset. -/
theorem witness_HostWritesOnlyThroughReset :
    (∃ t, hostAct (.writeMemory 0xFFFF#16 0x90#8) State.reset = .next t ∧ State.reset.mem.wf = true ∧
      (0x0000#16 : Addr) ≠ 0xFFFF#16) ∧
    (∃ t, hostAct (.reset 0x8003#16) State.reset = .next t ∧ t.pc = 0x8003#16) :=
  ⟨of_meets (by decide +kernel), of_meets (by decide +kernel)⟩

/-- A running core at BRK, at an unknown opcode and at another instruction. -/
theorem witness_EventFixedByOpcode :
    (∃ t, step (code 0x8000#16 [0x00#8] []) = .next t ∧ eventOfOpcode 0x00#8 = .softwareInterrupt) ∧
    (∃ t, step (code 0x8000#16 [0x4C#8] []) = .next t ∧ eventOfOpcode 0x4C#8 = .unknownOpcode 0x4C#8) ∧
    (∃ t, step (code 0x8000#16 [0xE8#8] []) = .next t ∧ eventOfOpcode 0xE8#8 = .none) :=
  ⟨of_meets (by decide +kernel), of_meets (by decide +kernel), of_meets (by decide +kernel)⟩

end Sys2Proof.Tests
end

section
/-! PROOFS. The register file at the end of an instruction and of a step (10_state.md): which flags each handler
writes, what Z and N are taken from, and where PC is. -/

namespace Sys2Proof.Proofs

open Sys2Proof.Machine Sys2Proof.Claims

/-! ## P after an instruction (R32) -/

/-- The handlers that may change a bit of P: the data-producing ones write Z and N (R32), CLC, CLD, CLI and CLV clear
their own flag (R160-R163), BRK sets I (R186). -/
def flagWriters : Flag → List Operate
  | .zero | .negative =>
    [.lda, .ldx, .ldy, .and, .ora, .inc, .dec, .inx, .iny, .dex, .dey, .tax, .tay, .txa, .tya, .tsx]
  | .carry => [.clc]
  | .decimal => [.cld]
  | .interruptDisable => [.cli, .brk]
  | .overflow => [.clv]
  | .brk | .unused => []

/-- A handler leaves every flag it is no writer of as it was. -/
theorem flagOf_statusAfter_of_notMem {f : Operate} {g : Flag} (h : f ∉ flagWriters g) (v : Byte) (s : State) :
    flagOf g (statusAfter f v s) = flagOf g s.p := by
  cases f with
  | sta | stx | sty | txs | unimplemented => rfl
  | clc | cld | cli | clv | brk => exact flagOf_withFlag_other (by rintro rfl; exact h (by decide)) _ _
  | _ =>
    exact flagOf_znStatus_other (by rintro rfl; exact h (by decide)) (by rintro rfl; exact h (by decide)) _ _

/-- An instruction without a result is no writer of Z and N. -/
theorem notMem_flagWriters_zero_of_resultOf {i : Instr} {s : State} (h : resultOf i s = none) :
    i.operate ∉ flagWriters .zero := by
  unfold resultOf at h
  cases hf : i.operate <;> rw [hf] at h
  case sta | stx | sty | txs | clc | cld | cli | clv | brk | unimplemented => decide
  all_goals exact nomatch h

/-- For a mode with an operand, the value of a kind that requires one is the operand byte (R97, R106). -/
theorem operandValue_eq_operandByte {k : AccessKind} (hk : needsValue k = true) {o : Operand}
    (ho : o.mode ≠ .implied) (s : State) : operandValue k o s = operandByte o s := by
  cases o with
  | implied => exact absurd rfl ho
  | immediate => rfl
  | _ => simp [operandValue, operandByte, hk]

/-- A handler that requires a value is given the operand byte (R109). -/
theorem valArg_resolve_eq_operandByte {i : Instr} (h : needsValue i.operate.accessKind = true) (s : State) :
    valArg i.operate.accessKind (resolve i.operate.accessKind i.operand (fetchOpcode s)) =
      operandByte i.operand s := by
  have hmode : i.operand.mode ≠ .implied := fun hm => by
    rw [(mode_implied_iff i).mp hm] at h
    exact nomatch h
  rw [valArg_resolve, if_pos h, operandValue_eq_operandByte h hmode]

/-- P after a data-producing handler that is given the operand byte where it requires a value: Z and N of the result. -/
theorem statusAfter_of_resultOf {i : Instr} {s : State} {v r : Byte}
    (hv : needsValue i.operate.accessKind = true → v = operandByte i.operand s) (h : resultOf i s = some r) :
    statusAfter i.operate v (handlerState i.operand s) = znStatus r s.p := by
  unfold resultOf at h
  cases hf : i.operate <;> rw [hf] at h hv
  case lda | ldx | ldy | and | ora | inc | dec =>
    obtain rfl := Option.some.inj h
    rw [hv rfl]
    rfl
  case sta | stx | sty | txs | clc | cld | cli | clv | brk | unimplemented => exact nomatch h
  all_goals
    obtain rfl := Option.some.inj h
    rfl

/-- P after an instruction is what its handler leaves there: fetch, resolution and accounting do not touch it. -/
theorem p_exec {i : Instr} {s t : State} (h : exec i s = .next t) :
    t.p = statusAfter i.operate
      (valArg i.operate.accessKind (resolve i.operate.accessKind i.operand (fetchOpcode s)))
      (handlerState i.operand s) := by
  rw [exec_next h]
  exact p_handlerOf _ _ _ _

/-- P after a data-producing instruction: Z and N of its result (R32, R112). -/
theorem p_exec_of_resultOf {i : Instr} {s t : State} {v : Byte} (h : exec i s = .next t)
    (hr : resultOf i s = some v) : t.p = znStatus v s.p := by
  rw [p_exec h]
  exact statusAfter_of_resultOf (fun hk => valArg_resolve_eq_operandByte hk s) hr

/-- An instruction leaves every flag its handler is no writer of as it was. -/
theorem flagOf_p_exec_of_notMem {i : Instr} {s t : State} {g : Flag} (h : exec i s = .next t)
    (hg : i.operate ∉ flagWriters g) : flagOf g t.p = flagOf g s.p := by
  rw [p_exec h]
  exact flagOf_statusAfter_of_notMem hg _ _

/-- Settles O47: Z and N come from the result through `setZN`, and every other flag has its listed writers. -/
theorem flagFrame : Obligations.FlagFrame := by
  intro i s t h
  have frame : ∀ g, i.operate ∉ flagWriters g → flagOf g t.p = flagOf g s.p := fun g => flagOf_p_exec_of_notMem h
  refine ⟨fun v hv => ?_, fun hn => ?_, fun hc => frame .carry (by simpa [flagWriters] using hc),
    fun hd => frame .decimal (by simpa [flagWriters] using hd),
    fun ho => frame .overflow (by simpa [flagWriters] using ho),
    fun hi hb => frame .interruptDisable (by simp [flagWriters, hi, hb]),
    frame .brk List.not_mem_nil, frame .unused List.not_mem_nil⟩
  · rw [p_exec_of_resultOf h hv, flagOf_zero_znStatus, flagOf_negative_znStatus, BitVec.msb_eq_getLsbD_last]
    exact ⟨rfl, rfl⟩
  · have hz := notMem_flagWriters_zero_of_resultOf hn
    exact ⟨frame .zero hz, frame .negative hz⟩

/-! ## PC at the end of a step (R25) -/

/-- BRK alone runs the handler of BRK (R75). -/
theorem operate_eq_brk_iff (i : Instr) : i.operate = .brk ↔ i = .brk := by
  cases i <;> simp [Instr.operate]

/-- An instruction other than BRK is its opcode byte and the operand bytes its mode consumes (R71). -/
theorem length_encode_of_ne_brk {i : Instr} (h : i ≠ .brk) :
    (encode i).length = 1 + i.operand.mode.operandBytes := by
  rw [length_encode, length_table_opcode, if_neg (mt (operate_eq_brk_iff i).mp h)]

/-- An instruction other than BRK leaves PC past the bytes it consumes, modulo 2^16 (R25, R26). -/
theorem pc_exec_of_ne_brk {i : Instr} {s t : State} (hi : i ≠ .brk) (h : exec i s = .next t) :
    t.pc = s.pc + BitVec.ofNat 16 (encode i).length := by
  rw [exec_next h, account_eq, pc_handlerOf (mt (operate_eq_brk_iff i).mp hi), handlerState_eq,
    length_encode_of_ne_brk hi, BitVec.ofNat_add, ← BitVec.add_assoc]
  rfl

/-- BRK leaves PC at the word its vector held before the pushes (R186, R188). -/
theorem pc_exec_brk {s t : State} (h : exec .brk s = .next t) :
    t.pc = s.mem.readLE brkVectorLow brkVectorHigh := by
  rw [exec_next h, account_eq, show Instr.operate .brk = .brk from rfl, handlerOf_brk_eq]
  rfl

/-- Settles O55: by what the running core fetches, BRK, another instruction, or none. -/
theorem pcAtStepEnd : Obligations.PcAtStepEnd := by
  intro s t hr h
  cases hf : fetchInstr s with
  | none =>
    rw [step_unknown hr hf] at h
    obtain rfl := Host.Outcome.next.inj h
    exact .inr (.inr ⟨rfl, rfl⟩)
  | some i =>
    rw [step_run hr hf] at h
    by_cases hi : i = .brk
    · subst hi
      exact .inr (.inl ⟨rfl, by rw [pc_exec_brk h, Memory.readLE, leWord_toNat]; rfl⟩)
    · refine .inl ⟨i, rfl, hi, ?_⟩
      rw [pc_exec_of_ne_brk hi h, BitVec.toNat_add, BitVec.toNat_ofNat, Nat.add_mod_mod]

end Sys2Proof.Proofs
end

section
/-! PROOFS. The memory and the stack (20_memory.md): what a read returns after a write, and what a push does. -/

namespace Sys2Proof.Proofs

open Sys2Proof.Machine Sys2Proof.Claims

/-- A read after a write to a canonical memory, by whether it is of the address written (R51). -/
theorem read_write {m : Memory} (hm : m.wf = true) (a b : Addr) (v : Byte) :
    (m.write a v).read b = if b = a then v else m.read b := by
  split
  case isTrue h => rw [h, Memory.read_write_same hm]
  case isFalse h => rw [Memory.read_write_other h]

/-- Settles O56: the written address and the others by `read_write`; the empty memory lists no address. -/
theorem memoryReadAfterWrite : Obligations.MemoryReadAfterWrite :=
  ⟨fun _ a v hm b => read_write hm a b v, fun a => Memory.lookup_nil a.toNat⟩

/-- The bottom of the stack page, where a push with SP = 0x00 writes (R27). -/
theorem stackAddr_zero : stackAddr 0x00#8 = 0x0100#16 := by decide

/-- Settles O18: the push is one record (`push_eq`), and its address is 256 + SP; SP = 0x00 wraps to 0xFF. -/
theorem pushRule : Obligations.PushRule := by
  refine ⟨fun v s => ⟨stackAddr s.sp, stackAddr_toNat s.sp, push_eq v s⟩, fun v s hsp => ?_⟩
  have hwrap : s.sp - 1 = 0xFF#8 := by rw [hsp]; rfl
  rw [push_eq, hwrap, hsp, stackAddr_zero]
  rfl

end Sys2Proof.Proofs
end

section
/-! PROOFS. The engine's helpers around a handler (40_execution_engine.md): what `setZN` does to P, the address and the
page crossing of each mode, and what the resolver leaves in the state. -/

namespace Sys2Proof.Proofs

open Sys2Proof.Machine Sys2Proof.Claims

/-! ## setZN (R112) -/

/-- `setZN` writes bits 1 and 7 of P, and no other bit. -/
theorem getLsbD_znStatus_other {k : Nat} (hz : k ≠ Flag.zero.bit) (hn : k ≠ Flag.negative.bit) (v p : Byte) :
    (znStatus v p).getLsbD k = p.getLsbD k := by
  by_cases hk : k < 8
  · rw [znStatus, getLsbD_withFlag _ _ _ hk, if_neg hn, getLsbD_withFlag _ _ _ hk, if_neg hz]
  · rw [BitVec.getLsbD_of_ge _ _ (by omega), BitVec.getLsbD_of_ge _ _ (by omega)]

/-- Z after `setZN`, of the value read as a number. -/
theorem flagOf_zero_znStatus_toNat (v p : Byte) : flagOf .zero (znStatus v p) = decide (v.toNat = 0) := by
  rw [flagOf_zero_znStatus, beq_eq_decide]
  exact decide_eq_decide.mpr BitVec.toNat_inj.symm

/-- N after `setZN`, of the value read as a number. -/
theorem flagOf_negative_znStatus_toNat (v p : Byte) :
    flagOf .negative (znStatus v p) = decide (0x80 ≤ v.toNat) := by
  rw [flagOf_negative_znStatus, BitVec.msb_eq_decide]

/-- Settles O17: the bits of `znStatus` one by one, then Z and N in each range of the value. -/
theorem setZNRule : Obligations.SetZNRule := by
  intro v s
  have hneg : flagOf .negative (znStatus v s.p) = v.getLsbD 7 := by
    rw [flagOf_negative_znStatus, BitVec.msb_eq_getLsbD_last]
  rw [p_setZN, flagOf_zero_znStatus_toNat, flagOf_negative_znStatus_toNat]
  simp only [decide_eq_true_iff, decide_eq_false_iff_not]
  refine ⟨⟨znStatus v s.p, setZN_eq v s, flagOf_zero_znStatus v s.p, hneg,
    fun k hz hn => getLsbD_znStatus_other hz hn v s.p⟩, ?_, ?_, ?_⟩
  · rintro rfl
    decide
  · omega
  · omega

/-! ## The resolver (R95-R108) -/

/-- The resolver moves PC past the operand bytes and reports the page crossing; nothing else changes (R108). -/
theorem consumeOperand_eq (o : Operand) (s : State) :
    consumeOperand o s =
      { s with pc := s.pc + BitVec.ofNat 16 o.mode.operandBytes, pageCrossed := crossesPage o s } := rfl

/-- A mode that indexes no 16-bit base reports no crossing (R107). -/
theorem consumeOperand_of_indexedBase_none {o : Operand} {s : State} (h : indexedBase? o s = none) :
    consumeOperand o s =
      { s with pc := s.pc + BitVec.ofNat 16 o.mode.operandBytes, pageCrossed := false } := by
  rw [consumeOperand_eq, crossesPage, h]

/-- A mode that indexes a 16-bit base reports a crossing exactly when the address has another high byte (R107). -/
theorem consumeOperand_of_indexedBase {o : Operand} {s : State} {base : Addr} (h : indexedBase? o s = some base) :
    consumeOperand o s =
      { s with
        pc := s.pc + BitVec.ofNat 16 o.mode.operandBytes
        pageCrossed := decide ((highByte base).toNat ≠ (effectiveAddress o s).toNat / 256) } := by
  have hcross : crossesPage o s = decide ((highByte base).toNat ≠ (effectiveAddress o s).toNat / 256) := by
    rw [← highByte_toNat, crossesPage, h, Bool.eq_iff_iff, bne_iff_ne, decide_eq_true_iff, ne_eq, ne_eq,
      BitVec.toNat_inj]
  rw [consumeOperand_eq, hcross]

/-- A byte indexed inside the zero page: the sum modulo 256, with no carry into page 1 (R99, R100, R104). -/
theorem zext16_add_toNat (zp index : Byte) : (zext16 (zp + index)).toNat = (zp.toNat + index.toNat) % 256 := by
  rw [zext16_toNat, BitVec.toNat_add]

/-- Settles O20: the address of each zero-page mode, none of which indexes a 16-bit base. -/
theorem zeroPageAddressing : Obligations.ZeroPageAddressing :=
  fun zp s => ⟨⟨zext16_toNat zp, consumeOperand_of_indexedBase_none rfl⟩,
    ⟨zext16_add_toNat zp s.x, consumeOperand_of_indexedBase_none rfl⟩,
    ⟨zext16_add_toNat zp s.y, consumeOperand_of_indexedBase_none rfl⟩⟩

/-- A mode that adds an index byte to the word of two operand bytes, whichever register the index is in: the address
counts their sum modulo 65536, and the crossing compares its high byte with the second operand byte (R102, R103). -/
theorem address_and_crossing_of_indexed_leWord {o : Operand} {s : State} {lo hi index : Byte} {ea : Addr}
    (hbase : indexedBase? o s = some (leWord lo hi)) (hsum : effectiveAddress o s = leWord lo hi + zext16 index)
    (hea : ea.toNat = (hi.toNat * 256 + lo.toNat + index.toNat) % 65536) :
    effectiveAddress o s = ea ∧
    consumeOperand o s =
      { s with
        pc := s.pc + BitVec.ofNat 16 o.mode.operandBytes
        pageCrossed := decide (hi.toNat ≠ ea.toNat / 256) } := by
  have haddr : effectiveAddress o s = ea := by
    apply BitVec.eq_of_toNat_eq
    rw [hsum, BitVec.toNat_add, leWord_toNat, zext16_toNat, hea]
  exact ⟨haddr, by rw [consumeOperand_of_indexedBase hbase, highByte_leWord, haddr]⟩

/-- Settles O21: Absolute addresses the two bytes' word and indexes no base; AbsoluteX and AbsoluteY index that word. -/
theorem absoluteAddressing : Obligations.AbsoluteAddressing :=
  fun lo hi _ => ⟨⟨leWord_toNat lo hi, consumeOperand_of_indexedBase_none rfl⟩,
    fun _ hea => address_and_crossing_of_indexed_leWord rfl rfl hea,
    fun _ hea => address_and_crossing_of_indexed_leWord rfl rfl hea⟩

/-- Settles O25: the resolver's whole effect is `consumeOperand_eq`, and each kind passes on its row of R109. -/
theorem resolverReportsHandlerReceives : Obligations.ResolverReportsHandlerReceives :=
  ⟨fun o s => ⟨crossesPage o s, consumeOperand_eq o s, rfl⟩,
    fun _ => ⟨⟨rfl, rfl⟩, ⟨rfl, rfl⟩, ⟨rfl, rfl⟩, ⟨rfl, rfl⟩⟩⟩

end Sys2Proof.Proofs
end

section
/-! PROOFS. Loads and stores (41_load_store.md): an instruction other than BRK as its handler on the state before the
fetch, then what each load and store handler leaves there. -/

namespace Sys2Proof.Proofs

open Sys2Proof.Machine Sys2Proof.Claims

/-! ## A completed instruction (R110, R111) -/

/-- No handler but BRK's looks at PC or at the pending page crossing, nor writes them. -/
theorem handlerOf_frame_pc_pageCrossed {f : Operate} (hf : f ≠ .brk) (a : Addr) (v : Byte) (s : State) (pc : Addr)
    (crossed : Bool) :
    handlerOf f a v { s with pc := pc, pageCrossed := crossed } =
      { handlerOf f a v s with pc := pc, pageCrossed := crossed } := by
  cases f with
  | brk => exact absurd rfl hf
  | _ => rfl

/-- Accounting after fetch and resolution, in the words of `completed` (R111). -/
theorem account_eq_completed (i : Instr) {s t : State} (hcycles : t.cycles = s.cycles) :
    account (table i.opcode).baseCycles
        { t with
          pc := s.pc + 1 + BitVec.ofNat 16 i.operand.mode.operandBytes
          pageCrossed := crossesPage i.operand s } =
      completed i s t := by
  rw [account_eq, completed, ← hcycles]
  rfl

/-- An instruction other than BRK is its handler run on the state before the fetch, completed (R90, R110, R111). -/
theorem exec_eq_completed {i : Instr} (hi : i.operate ≠ .brk) (s : State) :
    exec i s = .next (completed i s (handlerOf i.operate
      (addrArg i.operate.accessKind (resolve i.operate.accessKind i.operand (fetchOpcode s)))
      (valArg i.operate.accessKind (resolve i.operate.accessKind i.operand (fetchOpcode s))) s)) := by
  rw [exec_eq, handlerState_eq, handlerOf_frame_pc_pageCrossed hi,
    account_eq_completed i ((handlerOf_frame i.operate).cycles _ _ s)]

/-- BRK's handler is of the Implied kind, so a handler of another kind is not BRK's (R75). -/
theorem ne_brk_of_accessKind {f : Operate} (h : f.accessKind ≠ .implied) : f ≠ .brk := by
  rintro rfl
  exact h rfl

/-- `exec_eq_completed` for the Read kind: the handler is given the operand byte (R109). -/
theorem exec_eq_completed_of_read {i : Instr} (h : i.operate.accessKind = .read) (s : State) :
    exec i s = .next (completed i s (handlerOf i.operate 0x0000#16 (operandByte i.operand s) s)) := by
  rw [exec_eq_completed (ne_brk_of_accessKind (by rw [h]; decide)),
    valArg_resolve_eq_operandByte (by rw [h]; rfl), h, addrArg]

/-- The address a handler of the Write kind is given (R109). -/
theorem addrArg_resolve_of_write {i : Instr} (h : i.operate.accessKind = .write) (s : State) :
    addrArg i.operate.accessKind (resolve i.operate.accessKind i.operand (fetchOpcode s)) =
      effectiveAddress i.operand s := by
  rw [h, addrArg, resolve, effectiveAddress_fetchOpcode (hasAddress_of_write (.inl h))]

/-- `exec_eq_completed` for the Write kind: the handler is given the effective address and no value (R109). -/
theorem exec_eq_completed_of_write {i : Instr} (h : i.operate.accessKind = .write) (s : State) :
    exec i s = .next (completed i s (handlerOf i.operate (effectiveAddress i.operand s) 0x00#8 s)) := by
  rw [exec_eq_completed (ne_brk_of_accessKind (by rw [h]; decide)), addrArg_resolve_of_write h, h, valArg]

/-! ## Loads (R120-R122) -/

/-- The status byte of `setZN`, flag by flag, is the claims' one byte expression (R112). -/
theorem znStatus_eq_zn (v p : Byte) : znStatus v p = zn v p := by
  apply BitVec.eq_of_getLsbD_eq
  intro k hk
  have hmsb : v.msb = v.getLsbD 7 := BitVec.msb_eq_getLsbD_last v
  rw [znStatus, getLsbD_withFlag _ _ _ hk, getLsbD_withFlag _ _ _ hk, hmsb, zn]
  by_cases hv : v = 0x00#8 <;> interval_cases k <;> simp [hv, Flag.bit]

/-- What the load handlers share: `setZN` of the loaded byte after the register write. -/
theorem setZN_eq_zn (v : Byte) (s : State) : setZN v s = { s with p := zn v s.p } := by
  rw [setZN_eq, znStatus_eq_zn]
  rfl

/-- LDA's handler writes A and, from the byte written, Z and N (R120). -/
theorem handlerOf_lda_eq (a : Addr) (v : Byte) (s : State) :
    handlerOf .lda a v s = { s with a := v, p := zn v s.p } := setZN_eq_zn v (s.setA v)

/-- LDX's handler writes X and, from the byte written, Z and N (R121). -/
theorem handlerOf_ldx_eq (a : Addr) (v : Byte) (s : State) :
    handlerOf .ldx a v s = { s with x := v, p := zn v s.p } := setZN_eq_zn v (s.setX v)

/-- LDY's handler writes Y and, from the byte written, Z and N (R122). -/
theorem handlerOf_ldy_eq (a : Addr) (v : Byte) (s : State) :
    handlerOf .ldy a v s = { s with y := v, p := zn v s.p } := setZN_eq_zn v (s.setY v)

/-- Settles O1: LDA is of the Read kind, and its handler is `handlerOf_lda_eq`. -/
theorem loadAccumulatorResult : Obligations.LoadAccumulatorResult := by
  intro i s h
  rw [exec_eq_completed_of_read (by rw [h]; rfl), h, handlerOf_lda_eq]

/-- Settles O2: LDX is of the Read kind, and its handler is `handlerOf_ldx_eq`. -/
theorem loadIndexXResult : Obligations.LoadIndexXResult := by
  intro i s h
  rw [exec_eq_completed_of_read (by rw [h]; rfl), h, handlerOf_ldx_eq]

/-- Settles O3: LDY is of the Read kind, and its handler is `handlerOf_ldy_eq`. -/
theorem loadIndexYResult : Obligations.LoadIndexYResult := by
  intro i s h
  rw [exec_eq_completed_of_read (by rw [h]; rfl), h, handlerOf_ldy_eq]

/-! ## Stores (R123-R125) -/

/-- STA's handler writes A to memory (R123). -/
theorem handlerOf_sta_eq (a : Addr) (v : Byte) (s : State) :
    handlerOf .sta a v s = { s with mem := s.mem.write a s.a } := rfl

/-- STX's handler writes X to memory (R124). -/
theorem handlerOf_stx_eq (a : Addr) (v : Byte) (s : State) :
    handlerOf .stx a v s = { s with mem := s.mem.write a s.x } := rfl

/-- STY's handler writes Y to memory (R125). -/
theorem handlerOf_sty_eq (a : Addr) (v : Byte) (s : State) :
    handlerOf .sty a v s = { s with mem := s.mem.write a s.y } := rfl

/-- The writes of an instruction are those of its handler: fetch and resolution only read (R60). -/
theorem filter_isWrite_instrAccesses (i : Instr) (s : State) :
    (instrAccesses i s).filter Access.isWrite =
      (handlerAccesses i.operate
        (addrArg i.operate.accessKind (resolve i.operate.accessKind i.operand (fetchOpcode s)))
        (valArg i.operate.accessKind (resolve i.operate.accessKind i.operand (fetchOpcode s)))
        (handlerState i.operand s)).filter Access.isWrite := by
  have hreads : (instrReads i s).filter Access.isWrite = [] := by
    rw [List.filter_eq_nil_iff]
    intro x hx
    rw [isWrite_instrReads i s x hx]
    decide
  rw [instrAccesses_eq, List.filter_append, hreads, List.nil_append]

/-- A kind that requires no value makes the resolver read none (R106). -/
theorem valueReads_of_not_needsValue {k : AccessKind} (h : needsValue k = false) (o : Operand) (s : State) :
    valueReads k o s = [] := by
  rw [valueReads, h]
  rfl

/-- Settles O4: STA is of the Write kind, and its handler is `handlerOf_sta_eq` with one access. -/
theorem storeAccumulatorResult : Obligations.StoreAccumulatorResult := by
  have hkind : ∀ {i : Instr}, i.operate = .sta → i.operate.accessKind = .write := fun h => by rw [h]; rfl
  refine ⟨fun i s h => ?_, fun i s h => ⟨?_, ?_⟩⟩
  · rw [exec_eq_completed_of_write (hkind h), h, handlerOf_sta_eq]
  · rw [filter_isWrite_instrAccesses, addrArg_resolve_of_write (hkind h), h]
    rfl
  · rw [accessKind_table_opcode, hkind h, valueReads_of_not_needsValue rfl]
    exact List.not_mem_nil

/-- An instruction's mode is one its mnemonic has (R75). -/
theorem mode_mem_modes (i : Instr) : i.operand.mode ∈ i.operate.modes := by
  cases i <;> simp [Instr.operand, Instr.operate, Operand.mode, Operate.modes]

/-- No mode of STX indexes a 16-bit base, so no form crosses a page (R107, R124). -/
theorem crossesPage_of_stx {i : Instr} (h : i.operate = .stx) (s : State) : crossesPage i.operand s = false := by
  have hmode := mode_mem_modes i
  rw [h] at hmode
  have hne : ∀ m, m ∉ Operate.modes .stx → i.operand.mode ≠ m := fun m hm heq => hm (heq ▸ hmode)
  exact crossesPage_eq_false (hne _ (by decide)) (hne _ (by decide)) (hne _ (by decide)) s

/-- Settles O5: STX is of the Write kind with the handler `handlerOf_stx_eq`; its modes index in the zero page only. -/
theorem storeXResult : Obligations.StoreXResult := by
  refine ⟨fun i s h => ?_, fun _ s h => crossesPage_of_stx h s, fun zp s => zext16_add_toNat zp s.y⟩
  rw [exec_eq_completed_of_write (by rw [h]; rfl), h, handlerOf_stx_eq]

/-- Settles O6: STY is of the Write kind with the handler `handlerOf_sty_eq`; ZeroPageX adds modulo 256. -/
theorem storeYResult : Obligations.StoreYResult := by
  refine ⟨fun i s h => ?_, fun zp s => zext16_add_toNat zp s.x⟩
  rw [exec_eq_completed_of_write (by rw [h]; rfl), h, handlerOf_sty_eq]

end Sys2Proof.Proofs
end

section
/-! PROOFS. Logical operations (42_logical.md): what the handlers of AND and ORA leave in A and P, given the operand
byte. -/

namespace Sys2Proof.Proofs

open Sys2Proof.Machine Sys2Proof.Claims

/-- AND's handler writes the bitwise AND to A and, from the byte written, Z and N (R130). -/
theorem handlerOf_and_eq (a : Addr) (v : Byte) (s : State) :
    handlerOf .and a v s = { s with a := s.a &&& v, p := zn (s.a &&& v) s.p } :=
  setZN_eq_zn (s.a &&& v) (s.setA (s.a &&& v))

/-- ORA's handler writes the bitwise OR to A and, from the byte written, Z and N (R131). -/
theorem handlerOf_ora_eq (a : Addr) (v : Byte) (s : State) :
    handlerOf .ora a v s = { s with a := s.a ||| v, p := zn (s.a ||| v) s.p } :=
  setZN_eq_zn (s.a ||| v) (s.setA (s.a ||| v))

/-- The result of every form of ORA (R131). -/
theorem resultOf_of_ora {i : Instr} (h : i.operate = .ora) (s : State) :
    resultOf i s = some (s.a ||| operandByte i.operand s) := by
  rw [resultOf, h]

/-- Settles O7: AND is of the Read kind, and its handler is `handlerOf_and_eq`. -/
theorem logicalAndResult : Obligations.LogicalAndResult := by
  intro i s h
  rw [exec_eq_completed_of_read (by rw [h]; rfl), h, handlerOf_and_eq]

/-- Settles O8: ORA is of the Read kind with the handler `handlerOf_ora_eq`; N is bit 7 of the result, which is set
when the operand's is. -/
theorem logicalOrResult : Obligations.LogicalOrResult := by
  refine ⟨fun i s h => ?_, fun i s t h hexec hmsb => ?_⟩
  · rw [exec_eq_completed_of_read (by rw [h]; rfl), h, handlerOf_ora_eq]
  · rw [p_exec_of_resultOf hexec (resultOf_of_ora h s), flagOf_negative_znStatus, BitVec.msb_or, hmsb, Bool.or_true]

end Sys2Proof.Proofs
end

section
/-! PROOFS. Increments and decrements (43_increment_decrement.md): what a handler of the ReadModifyWrite kind and one of
the Implied kind are given, then the six handlers on the state before the fetch. -/

namespace Sys2Proof.Proofs

open Sys2Proof.Machine Sys2Proof.Claims

/-! ## Memory (R140, R141) -/

/-- The address a handler of the ReadModifyWrite kind is given (R109). -/
theorem addrArg_resolve_of_readModifyWrite {i : Instr} (h : i.operate.accessKind = .readModifyWrite) (s : State) :
    addrArg i.operate.accessKind (resolve i.operate.accessKind i.operand (fetchOpcode s)) =
      effectiveAddress i.operand s := by
  rw [h, addrArg, resolve, effectiveAddress_fetchOpcode (hasAddress_of_write (.inr h))]

/-- The value a handler of the ReadModifyWrite kind is given: the byte at the effective address (R106, R109). -/
theorem valArg_resolve_of_readModifyWrite {i : Instr} (h : i.operate.accessKind = .readModifyWrite) (s : State) :
    valArg i.operate.accessKind (resolve i.operate.accessKind i.operand (fetchOpcode s)) =
      s.read (effectiveAddress i.operand s) := by
  have hneeds : needsValue i.operate.accessKind = true := by rw [h]; rfl
  rw [valArg_resolve, if_pos hneeds, operandValue_of_hasAddress (hasAddress_of_write (.inr h)) hneeds]

/-- `exec_eq_completed` for the ReadModifyWrite kind: the handler is given the address and the byte there (R109). -/
theorem exec_eq_completed_of_readModifyWrite {i : Instr} (h : i.operate.accessKind = .readModifyWrite) (s : State) :
    exec i s = .next (completed i s (handlerOf i.operate (effectiveAddress i.operand s)
      (s.read (effectiveAddress i.operand s)) s)) := by
  rw [exec_eq_completed (ne_brk_of_accessKind (by rw [h]; decide)), addrArg_resolve_of_readModifyWrite h,
    valArg_resolve_of_readModifyWrite h]

/-- INC's handler writes the byte plus 1 back and takes Z and N from it (R140). -/
theorem handlerOf_inc_eq (a : Addr) (v : Byte) (s : State) :
    handlerOf .inc a v s = { s with mem := s.mem.write a (v + 1), p := zn (v + 1) s.p } :=
  setZN_eq_zn (v + 1) (s.write a (v + 1))

/-- DEC's handler writes the byte minus 1 back and takes Z and N from it (R141). -/
theorem handlerOf_dec_eq (a : Addr) (v : Byte) (s : State) :
    handlerOf .dec a v s = { s with mem := s.mem.write a (v - 1), p := zn (v - 1) s.p } :=
  setZN_eq_zn (v - 1) (s.write a (v - 1))

/-- Settles O9: INC is of the ReadModifyWrite kind, and its handler is `handlerOf_inc_eq` with one access. -/
theorem incrementMemoryResult : Obligations.IncrementMemoryResult := by
  have hkind : ∀ {i : Instr}, i.operate = .inc → i.operate.accessKind = .readModifyWrite := fun h => by rw [h]; rfl
  refine ⟨fun i s h => ?_, fun i s h => ?_⟩
  · rw [exec_eq_completed_of_readModifyWrite (hkind h), h, handlerOf_inc_eq]
  · rw [filter_isWrite_instrAccesses, addrArg_resolve_of_readModifyWrite (hkind h),
      valArg_resolve_of_readModifyWrite (hkind h), h]
    rfl

/-- Settles O10: DEC is of the ReadModifyWrite kind, and its handler is `handlerOf_dec_eq`. -/
theorem decrementMemoryResult : Obligations.DecrementMemoryResult := by
  intro i s h
  rw [exec_eq_completed_of_readModifyWrite (by rw [h]; rfl), h, handlerOf_dec_eq]

/-! ## Registers (R142-R145) -/

/-- `exec_eq_completed` for the Implied kind, BRK apart: the handler is given nothing (R109). -/
theorem exec_eq_completed_of_implied {i : Instr} {f : Operate} (hf : i.operate = f) (hkind : f.accessKind = .implied)
    (hbrk : f ≠ .brk) (s : State) : exec i s = .next (completed i s (handlerOf f 0x0000#16 0x00#8 s)) := by
  subst hf
  rw [exec_eq_completed hbrk, hkind, addrArg, valArg]

/-- INX's handler adds 1 to X and takes Z and N from it (R142). -/
theorem handlerOf_inx_eq (a : Addr) (v : Byte) (s : State) :
    handlerOf .inx a v s = { s with x := s.x + 1, p := zn (s.x + 1) s.p } :=
  setZN_eq_zn (s.x + 1) (s.setX (s.x + 1))

/-- INY's handler adds 1 to Y and takes Z and N from it (R143). -/
theorem handlerOf_iny_eq (a : Addr) (v : Byte) (s : State) :
    handlerOf .iny a v s = { s with y := s.y + 1, p := zn (s.y + 1) s.p } :=
  setZN_eq_zn (s.y + 1) (s.setY (s.y + 1))

/-- DEX's handler takes 1 from X, and Z and N from the result (R144). -/
theorem handlerOf_dex_eq (a : Addr) (v : Byte) (s : State) :
    handlerOf .dex a v s = { s with x := s.x - 1, p := zn (s.x - 1) s.p } :=
  setZN_eq_zn (s.x - 1) (s.setX (s.x - 1))

/-- DEY's handler takes 1 from Y, and Z and N from the result (R145). -/
theorem handlerOf_dey_eq (a : Addr) (v : Byte) (s : State) :
    handlerOf .dey a v s = { s with y := s.y - 1, p := zn (s.y - 1) s.p } :=
  setZN_eq_zn (s.y - 1) (s.setY (s.y - 1))

/-- Settles O11: all four are of the Implied kind, each with its own handler's equation. -/
theorem registerIncrementDecrementResult : Obligations.RegisterIncrementDecrementResult := by
  refine ⟨fun s => ?inx, fun s => ?iny, fun s => ?dex, fun s => ?dey⟩
  case inx => rw [exec_eq_completed_of_implied (f := .inx) rfl rfl (by decide), handlerOf_inx_eq]
  case iny => rw [exec_eq_completed_of_implied (f := .iny) rfl rfl (by decide), handlerOf_iny_eq]
  case dex => rw [exec_eq_completed_of_implied (f := .dex) rfl rfl (by decide), handlerOf_dex_eq]
  case dey => rw [exec_eq_completed_of_implied (f := .dey) rfl rfl (by decide), handlerOf_dey_eq]

end Sys2Proof.Proofs
end

section
/-! PROOFS. Register transfers (44_transfer.md): what each of the six handlers leaves in the state, and the address the
first push after TXS stores at. -/

namespace Sys2Proof.Proofs

open Sys2Proof.Machine Sys2Proof.Claims

/-! ## The transfers that set Z and N (R150-R154) -/

/-- TAX's handler copies A to X and takes Z and N from it (R150). -/
theorem handlerOf_tax_eq (a : Addr) (v : Byte) (s : State) :
    handlerOf .tax a v s = { s with x := s.a, p := zn s.a s.p } := setZN_eq_zn s.a (s.setX s.a)

/-- TAY's handler copies A to Y and takes Z and N from it (R151). -/
theorem handlerOf_tay_eq (a : Addr) (v : Byte) (s : State) :
    handlerOf .tay a v s = { s with y := s.a, p := zn s.a s.p } := setZN_eq_zn s.a (s.setY s.a)

/-- TXA's handler copies X to A and takes Z and N from it (R152). -/
theorem handlerOf_txa_eq (a : Addr) (v : Byte) (s : State) :
    handlerOf .txa a v s = { s with a := s.x, p := zn s.x s.p } := setZN_eq_zn s.x (s.setA s.x)

/-- TYA's handler copies Y to A and takes Z and N from it (R153). -/
theorem handlerOf_tya_eq (a : Addr) (v : Byte) (s : State) :
    handlerOf .tya a v s = { s with a := s.y, p := zn s.y s.p } := setZN_eq_zn s.y (s.setA s.y)

/-- TSX's handler copies SP to X and takes Z and N from it (R154). -/
theorem handlerOf_tsx_eq (a : Addr) (v : Byte) (s : State) :
    handlerOf .tsx a v s = { s with x := s.sp, p := zn s.sp s.p } := setZN_eq_zn s.sp (s.setX s.sp)

/-- Settles O12: all five are of the Implied kind, each with its own handler's equation. -/
theorem registerTransferResult : Obligations.RegisterTransferResult := by
  refine ⟨fun s => ?tax, fun s => ?tay, fun s => ?txa, fun s => ?tya, fun s => ?tsx⟩
  case tax => rw [exec_eq_completed_of_implied (f := .tax) rfl rfl (by decide), handlerOf_tax_eq]
  case tay => rw [exec_eq_completed_of_implied (f := .tay) rfl rfl (by decide), handlerOf_tay_eq]
  case txa => rw [exec_eq_completed_of_implied (f := .txa) rfl rfl (by decide), handlerOf_txa_eq]
  case tya => rw [exec_eq_completed_of_implied (f := .tya) rfl rfl (by decide), handlerOf_tya_eq]
  case tsx => rw [exec_eq_completed_of_implied (f := .tsx) rfl rfl (by decide), handlerOf_tsx_eq]

/-! ## The transfer to SP (R155) -/

/-- TXS's handler copies X to SP and leaves P alone (R155; C3). -/
theorem handlerOf_txs_eq (a : Addr) (v : Byte) (s : State) : handlerOf .txs a v s = { s with sp := s.x } := rfl

/-- The whole of TXS: its handler's state, completed (R155). -/
theorem exec_txs (s : State) : exec .txs s = .next (completed .txs s { s with sp := s.x }) := by
  rw [exec_eq_completed_of_implied (f := .txs) rfl rfl (by decide), handlerOf_txs_eq]

/-- Completing an instruction moves PC and the counters only, so SP is the handler's (R110, R111). -/
theorem sp_completed (i : Instr) (s t : State) : (completed i s t).sp = t.sp := rfl

/-- TXS leaves SP at the X it started from (R155). -/
theorem sp_exec_txs {s t : State} (h : exec .txs s = .next t) : t.sp = s.x := by
  rw [exec_txs] at h
  cases h
  exact sp_completed _ _ _

/-- A push stores its byte at the stack address of SP (R58). -/
theorem mem_push (v : Byte) (s : State) : (push v s).mem = s.mem.write (stackAddr s.sp) v := by
  rw [push_eq, State.mem_setSp, State.mem_setMem]

/-- Settles O13: TXS is of the Implied kind with the handler `handlerOf_txs_eq`, and the next push stores at SP, which
TXS took from X. -/
theorem transferToStackPointerResult : Obligations.TransferToStackPointerResult := by
  refine ⟨exec_txs, fun s t v h => ?_⟩
  rw [mem_push, sp_exec_txs h, stackAddr, zext16]

end Sys2Proof.Proofs
end

section
/-! PROOFS. Flag clears (45_flag_clear.md): clearing a flag is masking P with the complement of its bit, and each of the
four handlers is that for its own flag. -/

namespace Sys2Proof.Proofs

open Sys2Proof.Machine Sys2Proof.Claims

/-- Clearing the flag whose mask complements `m` masks P with `m` and writes nothing else (R29). -/
theorem setFlag_false_eq {f : Flag} {m : Byte} (hm : ~~~f.mask = m) (s : State) :
    s.setFlag f false = { s with p := s.p &&& m } := by
  subst hm
  rfl

/-- CLC's handler clears bit 0 of P (R160). -/
theorem handlerOf_clc_eq (a : Addr) (v : Byte) (s : State) :
    handlerOf .clc a v s = { s with p := s.p &&& 0xFE#8 } := setFlag_false_eq (f := .carry) (by decide) s

/-- CLD's handler clears bit 3 of P (R161). -/
theorem handlerOf_cld_eq (a : Addr) (v : Byte) (s : State) :
    handlerOf .cld a v s = { s with p := s.p &&& 0xF7#8 } := setFlag_false_eq (f := .decimal) (by decide) s

/-- CLI's handler clears bit 2 of P (R162). -/
theorem handlerOf_cli_eq (a : Addr) (v : Byte) (s : State) :
    handlerOf .cli a v s = { s with p := s.p &&& 0xFB#8 } := setFlag_false_eq (f := .interruptDisable) (by decide) s

/-- CLV's handler clears bit 6 of P (R163). -/
theorem handlerOf_clv_eq (a : Addr) (v : Byte) (s : State) :
    handlerOf .clv a v s = { s with p := s.p &&& 0xBF#8 } := setFlag_false_eq (f := .overflow) (by decide) s

/-- Settles O14: all four are of the Implied kind, each with its own handler's equation. -/
theorem flagClearResult : Obligations.FlagClearResult := by
  refine ⟨fun s => ?clc, fun s => ?cld, fun s => ?cli, fun s => ?clv⟩
  case clc => rw [exec_eq_completed_of_implied (f := .clc) rfl rfl (by decide), handlerOf_clc_eq]
  case cld => rw [exec_eq_completed_of_implied (f := .cld) rfl rfl (by decide), handlerOf_cld_eq]
  case cli => rw [exec_eq_completed_of_implied (f := .cli) rfl rfl (by decide), handlerOf_cli_eq]
  case clv => rw [exec_eq_completed_of_implied (f := .clv) rfl rfl (by decide), handlerOf_clv_eq]

end Sys2Proof.Proofs
end

section
/-! PROOFS. Software interrupt (46_software_interrupt.md): BRK is an interrupt entry from the state with PC past the
padding byte, and its accesses are the opcode fetch and that entry's. -/

namespace Sys2Proof.Proofs

open Sys2Proof.Machine Sys2Proof.Claims

/-- The state BRK's interrupt entry starts in: PC is past the opcode and the padding byte, and an Implied operand
crosses no page (R80, R107, R170). -/
theorem advance_handlerState_implied (s : State) :
    (handlerState .implied s).advance 1 = { s with pc := s.pc + 2, pageCrossed := false } := by
  have hpc : s.pc + 1 + BitVec.ofNat 16 0 + BitVec.ofNat 16 1 = s.pc + 2 := by
    rw [BitVec.add_zero, BitVec.add_assoc]
    rfl
  rw [handlerState_eq, ← hpc]
  rfl

/-- The third address of the frame, SP lowered by each of two pushes, is that of SP - 2 (R58). -/
theorem sub_one_sub_one (sp : Byte) : sp - 1 - 1 = sp - 2 := by
  rw [BitVec.sub_sub]
  rfl

/-- The three pushes lower SP by 3 modulo 256 (R58, R186). -/
theorem sub_one_sub_one_sub_one (sp : Byte) : sp - 1 - 1 - 1 = sp - 3 := by
  rw [BitVec.sub_sub, BitVec.sub_sub]
  rfl

/-- The frame of an interrupt entry, each byte at its address counted from SP (R186, R187). -/
theorem frameMemory_eq (s : State) :
    frameMemory s =
      ((s.mem.write (0x0100#16 + s.sp.setWidth 16) (highByte s.pc)).write
        (0x0100#16 + (s.sp - 1).setWidth 16) (lowByte s.pc)).write
        (0x0100#16 + (s.sp - 2).setWidth 16) (s.p ||| 0x30#8) := by
  rw [frameMemory, sub_one_sub_one]
  rfl

/-- BRK is an interrupt entry from the state past the padding byte, and its base cost (R170, R111). -/
theorem exec_brk (s : State) :
    exec .brk s = .next (account (table 0x00#8).baseCycles
      (interruptEntry { s with pc := s.pc + 2, pageCrossed := false })) := by
  rw [← advance_handlerState_implied, exec_eq_implied rfl]
  rfl

/-- BRK reads its opcode byte and then makes the accesses of the interrupt entry: an Implied operand has no bytes, no
pointer and no value to read (R60, R170). -/
theorem instrAccesses_brk (s : State) :
    instrAccesses .brk s = .read s.pc :: entryAccesses { s with pc := s.pc + 2, pageCrossed := false } := by
  rw [← advance_handlerState_implied]
  rfl

/-- Settles O15: BRK is the interrupt entry of `interruptEntry_eq`, its frame at addresses counted from SP and its
vector as it was before the pushes, since no stack address is a vector's. -/
theorem softwareInterruptResult : Obligations.SoftwareInterruptResult := by
  refine ⟨fun s => ?_, instrAccesses_brk⟩
  rw [exec_brk, interruptEntry_eq, frameMemory_eq, sub_one_sub_one_sub_one, account_eq]
  rfl

end Sys2Proof.Proofs
end

section
/-! PROOFS. The decoder and the encoder (30_encoding.md): the table as a whole, decoding an encoding, and the encoding
of what was decoded. -/

namespace Sys2Proof.Proofs

open Sys2Proof.Machine Sys2Proof.Claims

/-! ## The two directions of the round trip (R70-R72) -/

/-- Every instruction is a pairing R75 has. -/
theorem wellFormed_instr (i : Instr) : i.wellFormed = true := by
  cases i <;> rfl

/-- An opcode byte followed by the operand's bytes gives the instruction back, whatever comes after them. -/
theorem instrAt_opcode_bytes (i : Instr) (rest : List Byte) :
    instrAt? i.opcode ((i.operand.bytes ++ rest).headD 0) ((i.operand.bytes ++ rest).tail.headD 0) = some i := by
  rw [instrAt?, operate_table_opcode, mode_table_opcode, ofBytes_bytes, ofPairing_self]

/-- Settles O31: the bytes after the opcode give the operand back, and the row's length is that of the encoding, so
exactly the bytes of the encoding are taken off. -/
theorem decodeEncodeRoundTrip : Obligations.DecodeEncodeRoundTrip := by
  intro i rest
  have hlen : (table i.opcode).length = (i.operand.bytes ++ paddingBytes i).length + 1 := by
    rw [← length_encode, encode, List.length_cons]
  have hinstr := instrAt_opcode_bytes i (paddingBytes i ++ rest)
  rw [← List.append_assoc] at hinstr
  refine ⟨wellFormed_instr i, ?_⟩
  rw [encode, List.cons_append, decode_cons, hinstr]
  simp [hlen]

/-- What a list of bytes that decodes to an instruction is: its opcode byte, then at least the bytes its row's length
says, which are taken off. -/
theorem decode_eq_instr {bytes rest : List Byte} {i : Instr} (h : decode bytes = .instr i rest) :
    ∃ tail, bytes = i.opcode :: tail ∧ instrAt? i.opcode (tail.headD 0) (tail.tail.headD 0) = some i ∧
      (table i.opcode).length ≤ tail.length + 1 ∧ rest = tail.drop ((table i.opcode).length - 1) := by
  cases bytes with
  | nil => exact nomatch h
  | cons op tail =>
    rw [decode_cons] at h
    cases hi : instrAt? op (tail.headD 0) (tail.tail.headD 0) with
    | none => rw [hi] at h; exact nomatch h
    | some j =>
      rw [hi] at h
      dsimp only at h
      split at h
      · next hlen =>
        obtain ⟨rfl, rfl⟩ := DecodeResult.instr.inj h
        obtain rfl := opcode_of_instrAt hi
        exact ⟨tail, rfl, hi, hlen, rfl⟩
      · exact nomatch h

/-- The bytes of an operand read from a long enough list are the first ones of that list. -/
theorem bytes_ofBytes {m : AddrMode} {tail : List Byte} (h : m.operandBytes ≤ tail.length) :
    (Operand.ofBytes m (tail.headD 0) (tail.tail.headD 0)).bytes = tail.take m.operandBytes := by
  rcases tail with _ | ⟨b1, _ | ⟨b2, tail⟩⟩ <;> cases m <;>
    simp_all [Operand.ofBytes, Operand.bytes, AddrMode.operandBytes]

/-- Settles O32: the operand's bytes are those it was read from; for BRK the one byte its row's length adds is free. -/
theorem decodedBytesAreTheEncoding : Obligations.DecodedBytesAreTheEncoding := by
  intro bytes rest i h
  obtain ⟨tail, rfl, hi, hlen, rfl⟩ := decode_eq_instr h
  rw [length_table_opcode] at hlen ⊢
  refine ⟨fun hbrk => ?_, fun hbrk => ?_⟩
  · rw [if_neg (mt (operate_eq_brk_iff i).mp hbrk)] at hlen ⊢
    have hpad : paddingBytes i = [] := by
      cases i <;> first | rfl | exact absurd rfl hbrk
    have hbytes : i.operand.bytes = tail.take i.operand.mode.operandBytes := by
      have hoperand := (instrAt_eq_some hi).2
      rw [mode_table_opcode] at hoperand
      rw [← bytes_ofBytes (by omega), ← hoperand]
    rw [encode, hpad, hbytes]
    simp
  · subst hbrk
    cases tail with
    | nil => simp [Instr.operate] at hlen
    | cons padding tail => exact ⟨padding, rfl⟩

/-- Bytes at PC that decode to an instruction are what the core fetches. -/
theorem fetchInstr_of_decode {s : State} {i : Instr} {rest : List Byte}
    (h : decode [s.read s.pc, s.read (s.pc + 1), s.read (s.pc + 2)] = .instr i rest) : fetchInstr s = some i := by
  obtain ⟨tail, hbytes, hi, -, -⟩ := decode_eq_instr h
  obtain ⟨hop, rfl⟩ := List.cons.inj hbytes
  rw [← hop] at hi
  exact hi

/-- Settles O33: the decoded instruction is the one the running core fetches. -/
theorem stepRunsDecodedInstruction : Obligations.StepRunsDecodedInstruction :=
  fun _ _ _ hrun h => step_run hrun (fetchInstr_of_decode h)

/-! ## The table (R73-R77) -/

/-- Settles O28: the sentinel is what the decoder refuses, and a row fixes what it reads. -/
theorem decoderFollowsTable : Obligations.DecoderFollowsTable := by
  intro op b1 b2
  refine ⟨(instrAt_eq_none_iff op b1 b2).mpr, fun h => ?_⟩
  obtain ⟨i, hi⟩ := exists_instrAt h b1 b2
  exact ⟨i, hi, opcode_of_instrAt hi, instrAt_eq_some hi⟩

theorem wellFormed_row : ∀ r ∈ opcodeRows, r.2.wellFormed = true := by decide +kernel

/-- Every entry of the table is well formed, the sentinel among them (R77). -/
theorem wellFormed_table (op : Byte) : (table op).wellFormed = true := by
  rcases table_cases op with h | ⟨-, h⟩
  · exact wellFormed_row (op, table op) h
  · rw [h]
    decide

/-- Whether a byte is implemented, as a test on numbers below 256. -/
def implementedByte (n : Nat) : Bool := decide ((table (BitVec.ofNat 8 n)).operate ≠ .unimplemented)

theorem length_filter_implementedByte : ((List.range 256).filter implementedByte).length = 70 := by decide +kernel

/-- The sentinel bytes are those that are not implemented, so there are 256 - 70 of them (R76). -/
theorem length_filter_sentinel :
    ((List.range 256).filter fun n => decide (table (BitVec.ofNat 8 n) = sentinel)).length = 186 := by
  have hnot : (fun n => decide (table (BitVec.ofNat 8 n) = sentinel)) = fun n => !implementedByte n := by
    funext n
    simp [implementedByte, operate_unimplemented_iff]
  have htotal := List.length_eq_length_filter_add (l := List.range 256) implementedByte
  rw [length_filter_implementedByte, List.length_range] at htotal
  rw [hnot]
  omega

/-- Settles O26: the checks hold of every entry, and the rows and entries are counted. -/
theorem tableInvariants : Obligations.TableInvariants :=
  ⟨wellFormed_table, by decide +kernel, rfl, length_filter_implementedByte, length_filter_sentinel⟩

/-- The rows of the table that name the handler `f`: opcode byte, mode and base cycles (R75). -/
def rowsOf (f : Operate) : List (Byte × AddrMode × Nat) :=
  (opcodeRows.filter fun r => r.2.operate = f).map fun r => (r.1, r.2.mode, r.2.baseCycles)

/-- The table has the row's descriptor at each row's byte: no byte has two rows. -/
theorem table_row : ∀ r ∈ opcodeRows, table r.1 = r.2 := by decide +kernel

/-- The rows of an implemented handler are the bytes that decode to it, each with its mode and base cycles. -/
theorem mem_rowsOf_iff {f : Operate} (hf : f ≠ .unimplemented) (l : Byte × AddrMode × Nat) :
    l ∈ rowsOf f ↔ (table l.1).operate = f ∧ (table l.1).mode = l.2.1 ∧ (table l.1).baseCycles = l.2.2 := by
  simp only [rowsOf, List.mem_map, List.mem_filter, decide_eq_true_iff]
  constructor
  · rintro ⟨r, ⟨hr, hrf⟩, rfl⟩
    exact ⟨table_row r hr ▸ hrf, congrArg _ (table_row r hr), congrArg _ (table_row r hr)⟩
  · rintro ⟨hop, hmode, hcycles⟩
    have hs : table l.1 ≠ sentinel := fun hs => hf (hop ▸ (operate_unimplemented_iff l.1).mpr hs)
    exact ⟨(l.1, table l.1), ⟨(table_cases l.1).resolve_right fun h => hs h.2, hop⟩,
      Prod.ext rfl (Prod.ext hmode hcycles)⟩

/-- A handler is encoded by the table's rows for it, in whatever order they are listed. -/
theorem encodedAs_of_perm {f : Operate} {rows : List (Byte × AddrMode × Nat)} (hf : f ≠ .unimplemented)
    (h : (rowsOf f).Perm rows) : EncodedAs f rows := by
  have hrows : ∀ l, l ∈ rows ↔ _ := fun l => h.mem_iff.symm.trans (mem_rowsOf_iff hf l)
  refine ⟨fun op b1 b2 i hi hif => ?_, fun l hl => ?_⟩
  · have hop : (table op).operate = f := (instrAt_eq_some hi).1 ▸ hif
    exact ⟨(op, (table op).mode, (table op).baseCycles), (hrows _).mpr ⟨hop, rfl, rfl⟩, rfl⟩
  · obtain ⟨hop, hmode, hcycles⟩ := (hrows l).mp hl
    have hs : table l.1 ≠ sentinel := fun hs => hf (hop ▸ (operate_unimplemented_iff l.1).mpr hs)
    refine ⟨hcycles, fun b1 b2 => ?_⟩
    obtain ⟨i, hi⟩ := exists_instrAt hs b1 b2
    obtain ⟨hoperate, hoperand⟩ := instrAt_eq_some hi
    exact ⟨i, hi, hoperate.trans hop, hmode ▸ hoperand⟩

/-- Settles O27: each list, handler by handler, is the table's rows for that handler. -/
theorem opcodeMapOfEveryMnemonic : Obligations.OpcodeMapOfEveryMnemonic := by
  refine ⟨?_, ?_, ?_, ?_, ?_, ?_, ?_, ?_, ?_, ?_, ?_, ?_, ?_, ?_, ?_, ?_, ?_, ?_, ?_, ?_, ?_, ?_, ?_, ?_, ?_⟩ <;>
    exact encodedAs_of_perm (by decide) (by decide +kernel)

/-! ## Written-out words and spellings (R71, R85) -/

/-- Settles O29: each word is read through the table. -/
theorem decodesWrittenOutWords : Obligations.DecodesWrittenOutWords := by
  unfold Obligations.DecodesWrittenOutWords
  decide +kernel

/-- Settles O30: each text is the row's mnemonic and the spelling of the operand. -/
theorem assemblySpellings : Obligations.AssemblySpellings := by
  unfold Obligations.AssemblySpellings
  decide +kernel

end Sys2Proof.Proofs
end

section
/-! PROOFS. The indirect modes, the operand value of each access kind and the page crossing
(40_execution_engine.md section 2). -/

namespace Sys2Proof.Proofs

open Sys2Proof.Machine Sys2Proof.Claims

/-! ## Indirect addressing (R104, R105) -/

/-- A zero-page pointer in the words of its two addresses: the second wraps within the page (D9). -/
theorem zeroPagePointer_toNat {ptr : Byte} {z0 z1 : Addr} (h0 : z0.toNat = ptr.toNat)
    (h1 : z1.toNat = (ptr.toNat + 1) % 256) (m : Memory) :
    (m.zeroPagePointer ptr).toNat = (m.read z1).toNat * 256 + (m.read z0).toNat := by
  have hz0 : zext16 ptr = z0 := BitVec.eq_of_toNat_eq (by rw [zext16_toNat, h0])
  have hz1 : zext16 (ptr + 1) = z1 := BitVec.eq_of_toNat_eq (by rw [zext16_add_toNat, h1]; rfl)
  rw [Memory.zeroPagePointer, Memory.readLE, hz0, hz1, leWord_toNat]

/-- Settles O22: (zp,X) indexes the pointer in the zero page and no 16-bit base; (zp),Y indexes the word at the pointer,
whose high byte is the byte at the second address. -/
theorem indirectAddressing : Obligations.IndirectAddressing := by
  refine fun zp s z0 z1 => ⟨fun h0 h1 => ⟨?_, consumeOperand_of_indexedBase_none rfl⟩, fun h0 h1 => ?_⟩
  · refine zeroPagePointer_toNat ?_ ?_ s.mem
    · rw [h0, BitVec.toNat_add]
    · rw [h1, BitVec.toNat_add, Nat.mod_add_mod]
  · have hbase := zeroPagePointer_toNat h0 h1 s.mem
    have hhigh : (highByte (s.mem.zeroPagePointer zp)).toNat = (s.read z1).toNat := by
      have hlow := (s.mem.read z0).isLt
      rw [highByte_toNat, hbase, State.read]
      omega
    refine ⟨?_, ?_⟩
    · rw [effectiveAddress, BitVec.toNat_add, hbase, zext16_toNat]
      rfl
    · rw [consumeOperand_of_indexedBase rfl, hhigh]
      rfl

/-! ## The operand value (R96, R97, R106) -/

/-- A kind that requires no value is given none in a mode with an address (R106). -/
theorem operandValue_of_not_needsValue {o : Operand} (h : o.mode.hasAddress = true) {k : AccessKind}
    (hk : needsValue k = false) (s : State) : operandValue k o s = 0x00#8 := by
  cases o with
  | implied => rfl
  | immediate => exact nomatch h
  | _ => simp [operandValue, hk]

/-- Settles O23: in a mode with an address the value is fetched exactly for the kinds that require one. -/
theorem operandValueByKind : Obligations.OperandValueByKind := by
  refine fun o s => ⟨fun ho kind hk => ?_, fun ho kind hk => ?_, fun imm kind ho => ?_, fun ho kind => ?_⟩
  · rw [resolve, operandValue_of_hasAddress ho (by rcases hk with rfl | rfl <;> rfl)]
  · rw [resolve, operandValue_of_not_needsValue ho (by rcases hk with rfl | rfl <;> rfl)]
  · subst ho
    exact ⟨rfl, rfl⟩
  · subst ho
    rfl

/-! ## The page crossing (R107) -/

/-- The modes that index a 16-bit base, and the base of each (R102, R103, R105). -/
theorem indexedBase_eq_some_iff (o : Operand) (s : State) (base : Addr) :
    indexedBase? o s = some base ↔
      o = .absoluteX base ∨ o = .absoluteY base ∨
        ∃ zp, o = .indirectY zp ∧ base = leWord (s.read (zp.setWidth 16)) (s.read ((zp + 1).setWidth 16)) := by
  cases o with
  | indirectY zp =>
    rw [indexedBase?, Option.some_inj, eq_comm]
    simp only [reduceCtorEq, false_or, Operand.indirectY.injEq, exists_eq_left']
    rfl
  | _ => simp [indexedBase?, eq_comm]

/-- A crossing is reported exactly when an indexed 16-bit base lies in another page than the effective address. -/
theorem crossesPage_iff (o : Operand) (s : State) :
    crossesPage o s = true ↔
      ∃ base, indexedBase? o s = some base ∧ base.toNat / 256 ≠ (effectiveAddress o s).toNat / 256 := by
  rw [crossesPage]
  cases indexedBase? o s with
  | none => simp
  | some base =>
    rw [bne_iff_ne, ne_eq, ← BitVec.toNat_inj, highByte_toNat, highByte_toNat]
    simp

/-- Settles O24: the report is `crossesPage`, and the three modes are those with an indexed base. -/
theorem pageCrossingModes : Obligations.PageCrossingModes := by
  intro o s
  rw [consumeOperand_eq, crossesPage_iff]
  simp only [indexedBase_eq_some_iff, and_comm]

end Sys2Proof.Proofs
end

section
/-! PROOFS. Popping, and memory as the map of its reads (20_memory.md sections 1 and 4). -/

namespace Sys2Proof.Proofs

open Sys2Proof.Machine Sys2Proof.Claims

/-- A pop right after a push puts SP back, the wrap at 0x00 included (R58, R59). -/
theorem sp_popState_push (v : Byte) (s : State) : (popState (push v s)).sp = s.sp := by
  rw [push_eq, popState, State.sp_setSp, State.sp_setSp, BitVec.sub_add_cancel]

/-- Settles O19: the pop reads the address the push wrote. -/
theorem popReturnsPushedByte : Obligations.PopReturnsPushedByte := by
  refine fun v s hwf => ⟨?_, sp_popState_push v s⟩
  rw [popValue, sp_popState_push, State.read, mem_push, Memory.read_write_same hwf]

/-- Settles O57: canonical memories are their reads, and after the second write every address reads as at first. -/
theorem memoryReadsDetermineIt : Obligations.MemoryReadsDetermineIt := by
  refine ⟨fun m m' hm hm' h => Memory.ext_read hm hm' h, fun m a v hm => ?_⟩
  have hwf := Memory.wf_write hm a v
  refine ⟨hwf, Memory.ext_read (Memory.wf_write hwf a _) hm fun b => ?_⟩
  by_cases hb : b = a
  · rw [hb, Memory.read_write_same hwf]
  · rw [Memory.read_write_other hb, Memory.read_write_other hb]

end Sys2Proof.Proofs
end

section
/-! PROOFS. The step and its runs (40_execution_engine.md R90, 60_exceptions.md section 1): what completes, what halts,
and what the cycle counter does. -/

namespace Sys2Proof.Proofs

open Sys2Proof.Machine Sys2Proof.Claims

/-! ## One step, and runs of steps -/

/-- `step_cases` with the instruction case in the words of `exec` (R90). -/
theorem step_cases_exec {s t : State} (h : step s = .next t) :
    (s.halted = true ∧ t = s) ∨
    (s.halted = false ∧ fetchInstr s = none ∧ t = { s with haltOpcode := opcodeAt s, halted := true }) ∨
    (s.halted = false ∧ ∃ i, fetchInstr s = some i ∧ exec i s = .next t) := by
  refine (step_cases h).imp_right (Or.imp_right ?_)
  rintro ⟨hrun, i, hf, rfl⟩
  exact ⟨hrun, i, hf, exec_eq_run i s⟩

/-- What an instruction does to the fields no handler touches (R110, R111). -/
theorem exec_frame {i : Instr} {s t : State} (h : exec i s = .next t) :
    t.cycles = s.cycles + (table i.opcode).baseCycles + penalty (crossesPage i.operand s) ∧
    t.halted = s.halted ∧ t.haltOpcode = s.haltOpcode ∧ t.pageCrossed = false := by
  rw [exec_eq_run, run] at h
  obtain rfl := Host.Outcome.next.inj h
  exact transact_frame (handlerOf_frame i.operate) _ _ _

/-- Every step answers a next state (R113, R183). -/
theorem exists_step_next (s : State) : ∃ t, step s = .next t := by
  cases hh : s.halted with
  | true => exact ⟨s, step_halted hh⟩
  | false =>
    cases hf : fetchInstr s with
    | none => exact ⟨_, step_unknown hh hf⟩
    | some i => exact ⟨_, (step_run hh hf).trans (exec_eq i s)⟩

/-- Settles O38: `exec_eq` names the state an instruction answers, and `exec_frame` its halt registers. -/
theorem stepAlwaysCompletes : Obligations.StepAlwaysCompletes := by
  refine ⟨exists_step_next, fun i s => ⟨_, exec_eq i s, ?_⟩⟩
  obtain ⟨-, hhalted, hhaltOpcode, -⟩ := exec_frame (exec_eq i s)
  exact ⟨hhalted, hhaltOpcode⟩

/-- A run of `k + 1` steps is a step and a run of `k`. -/
theorem exists_step_of_run_succ {k : Nat} {s t : State} (h : Host.Core.run Sys2Proof.core (k + 1) s = .next t) :
    ∃ u, step s = .next u ∧ Host.Core.run Sys2Proof.core k u = .next t := by
  obtain ⟨u, hu⟩ := exists_step_next s
  exact ⟨u, hu, run_succ hu k ▸ h⟩

/-- What every step keeps, every run keeps. -/
theorem run_keeps {P : State → Prop} (hstep : ∀ s t, P s → step s = .next t → P t) {k : Nat} {s t : State} (hs : P s)
    (h : Host.Core.run Sys2Proof.core k s = .next t) : P t := by
  induction k generalizing s with
  | zero =>
    rw [run_zero] at h
    exact Host.Outcome.next.inj h ▸ hs
  | succ k ih =>
    obtain ⟨u, hu, hrun⟩ := exists_step_of_run_succ h
    exact ih (hstep s u hs hu) hrun

/-! ## The halt (R180-R182) -/

/-- A halted core makes no access (R60, R91). -/
theorem busTrace_halted {s : State} (h : s.halted = true) : busTrace s = [] := by
  rw [busTrace, if_pos h]

/-- An unknown opcode makes the opcode fetch and no other access (R60). -/
theorem busTrace_unknown {s : State} (hrun : s.halted = false) (hf : fetchInstr s = none) :
    busTrace s = [.read s.pc] := by
  simp [busTrace, hrun, hf]

/-- A running core makes the accesses of the instruction it fetches (R60). -/
theorem busTrace_run {s : State} {i : Instr} (hrun : s.halted = false) (hf : fetchInstr s = some i) :
    busTrace s = instrAccesses i s := by
  simp [busTrace, hrun, hf]

/-- Settles O35: a byte without a row is one the fetch refuses. -/
theorem unknownOpcodeHalts : Obligations.UnknownOpcodeHalts := by
  intro s hrun hop
  have hf := (fetchInstr_eq_none_iff s).mpr hop
  exact ⟨step_unknown hrun hf, busTrace_unknown hrun hf⟩

/-- A halted core answers its own state after any number of steps (R181). -/
theorem run_halted {s : State} (h : s.halted = true) (k : Nat) : Host.Core.run Sys2Proof.core k s = .next s := by
  induction k with
  | zero => exact run_zero s
  | succ k ih => rw [run_succ (step_halted h), ih]

/-- Settles O36: by induction on the number of steps, each of which answers the same state. -/
theorem haltIsSticky : Obligations.HaltIsSticky :=
  fun s h => ⟨run_halted h, busTrace_halted h, fun pc => State.halted_resetWith pc s.mem⟩

/-- Settles O37: a step of a halted core changes nothing, and an instruction leaves both halt registers alone. -/
theorem haltOnlyByUnknownOpcode : Obligations.HaltOnlyByUnknownOpcode := by
  intro s t h
  rcases step_cases_exec h with ⟨hh, rfl⟩ | ⟨hrun, hf, rfl⟩ | ⟨hrun, i, hf, hexec⟩
  · exact ⟨fun hrun => absurd hh (by simp [hrun]), id, fun hne => absurd rfl hne⟩
  · exact ⟨fun _ _ => (fetchInstr_eq_none_iff s).mp hf, fun _ => rfl, fun _ => ⟨hrun, rfl⟩⟩
  · obtain ⟨-, hhalted, hhaltOpcode, -⟩ := exec_frame hexec
    rw [hhalted]
    exact ⟨fun _ hh => absurd hh (by simp [hrun]), id, fun hne => absurd hhaltOpcode hne⟩

/-! ## Cycles (R35, R111) -/

theorem baseCycles_row : ∀ r ∈ opcodeRows, 2 ≤ r.2.baseCycles ∧ r.2.baseCycles ≤ 7 := by decide +kernel

/-- Every instruction has its own row (R75). -/
theorem mem_opcodeRows_opcode (i : Instr) : (i.opcode, table i.opcode) ∈ opcodeRows := by
  refine (table_cases i.opcode).resolve_right fun h => ?_
  have hop := operate_table_opcode i
  rw [h.2] at hop
  have hself := ofPairing_self i
  rw [← hop] at hself
  exact nomatch hself

/-- A completed instruction adds at least 2 cycles and at most 8: the base cost and a page crossing (R111, D7). -/
theorem cycles_exec_bounds {i : Instr} {s t : State} (h : exec i s = .next t) :
    s.cycles + 2 ≤ t.cycles ∧ t.cycles ≤ s.cycles + 8 := by
  obtain ⟨hcycles, -⟩ := exec_frame h
  obtain ⟨hlow, hhigh⟩ := baseCycles_row _ (mem_opcodeRows_opcode i)
  have hpenalty : penalty (crossesPage i.operand s) ≤ 1 := by rw [penalty]; split <;> decide
  dsimp only at hlow hhigh
  omega

/-- Settles O39: only an instruction adds cycles, by the accounting phase. -/
theorem cyclesPerStep : Obligations.CyclesPerStep := by
  intro s t h
  rcases step_cases_exec h with ⟨hh, rfl⟩ | ⟨hrun, hf, rfl⟩ | ⟨hrun, i, hf, hexec⟩
  · exact ⟨fun _ => rfl, fun i hrun => absurd hh (by simp [hrun])⟩
  · exact ⟨fun _ => rfl, fun i _ hi => absurd (hf.symm.trans hi) (by simp)⟩
  · refine ⟨fun hnot => ?_, fun j _ hj => ?_⟩
    · rcases hnot with hh | hop
      · exact absurd hh (by simp [hrun])
      · exact absurd (hf.symm.trans ((fetchInstr_eq_none_iff s).mpr hop)) (by simp)
    · obtain rfl := Option.some.inj (hf.symm.trans hj)
      obtain ⟨hcycles, -, -, hcrossed⟩ := exec_frame hexec
      obtain ⟨hlow, hhigh⟩ := cycles_exec_bounds hexec
      exact ⟨opcode_of_fetchInstr hf ▸ hcycles, hlow, hhigh, hcrossed⟩

/-- No step lowers the cycle counter or adds more than 8 (R35). -/
theorem cycles_step_bounds {s t : State} (h : step s = .next t) :
    s.cycles ≤ t.cycles ∧ t.cycles ≤ s.cycles + 8 := by
  rcases step_cases_exec h with ⟨-, rfl⟩ | ⟨-, -, rfl⟩ | ⟨-, i, -, hexec⟩
  · exact ⟨le_rfl, Nat.le_add_right _ _⟩
  · exact ⟨le_rfl, Nat.le_add_right _ _⟩
  · obtain ⟨hlow, hhigh⟩ := cycles_exec_bounds hexec
    exact ⟨Nat.le_of_add_right_le hlow, hhigh⟩

/-- Settles O40: by induction on the number of steps. -/
theorem cyclesNeverDecrease : Obligations.CyclesNeverDecrease := by
  intro k
  induction k with
  | zero =>
    intro s t h
    rw [run_zero] at h
    obtain rfl := Host.Outcome.next.inj h
    exact ⟨le_rfl, le_rfl⟩
  | succ k ih =>
    intro s t h
    obtain ⟨u, hu, hrun⟩ := exists_step_of_run_succ h
    have hstep := cycles_step_bounds hu
    have hrest := ih u t hrun
    omega

/-! ## The event of a step (R183, R185) -/

/-- The event of an opcode byte, by the handler its row names. -/
theorem eventOfOpcode_cases (op : Byte) :
    eventOfOpcode op =
      if (table op).operate = .brk then .softwareInterrupt
      else if (table op).operate = .unimplemented then .unknownOpcode op else .none := by
  rw [eventOfOpcode]
  cases (table op).operate <;> rfl

/-- Settles O60: a byte without a row is the one that halts, and a fetched instruction is BRK exactly when its row names
BRK's handler. -/
theorem eventFixedByOpcode : Obligations.EventFixedByOpcode := by
  intro s t hrun h
  rw [eventOfOpcode_cases]
  cases hf : fetchInstr s with
  | none =>
    rw [step_unknown hrun hf] at h
    obtain rfl := Host.Outcome.next.inj h
    have hs : table (s.read s.pc) = sentinel := (instrAt_eq_none_iff _ _ _).mp hf
    rw [hs]
    simp [sentinel, eq_comm]
  | some i =>
    rw [step_run hrun hf] at h
    obtain ⟨-, hhalted, -, -⟩ := exec_frame h
    have hne : (table i.opcode).operate ≠ .unimplemented := operate_row _ (mem_opcodeRows_opcode i)
    rw [operate_table_opcode] at hne
    rw [← opcode_of_fetchInstr hf, operate_table_opcode, hhalted, hrun, if_neg hne]
    by_cases hi : i = .brk
    · simp [hi, Instr.operate]
    · simp [hi, operate_eq_brk_iff]

end Sys2Proof.Proofs
end

section
/-! PROOFS. What reset gives and every step and host action keeps (10_state.md sections 4 and 6,
70_reset_and_hazards.md): canonical memory, no page crossing pending, and the flags no instruction sets. -/

namespace Sys2Proof.Proofs

open Sys2Proof.Machine Sys2Proof.Claims

/-! ## The invariant (R38) -/

/-- Settles O16: reset is one record, and memory after `State.reset` lists nothing. -/
theorem resetPortValues : Obligations.ResetPortValues :=
  ⟨fun _ _ => rfl, rfl, fun a => Memory.lookup_nil a.toNat⟩

/-- Settles O41: reset clears the pending crossing and keeps memory; the memory of `State.reset` is empty. -/
theorem resetMeetsInvariant : Obligations.ResetMeetsInvariant :=
  ⟨⟨rfl, rfl⟩, fun pc s hwf => ⟨hwf, State.pageCrossed_resetWith pc s.mem⟩⟩

/-- An instruction keeps the canonical form of memory. -/
theorem wf_exec {i : Instr} {s t : State} (hwf : s.mem.wf = true) (h : exec i s = .next t) : t.mem.wf = true := by
  rw [exec_eq_run, run] at h
  obtain rfl := Host.Outcome.next.inj h
  exact wf_transact hwf _ _ _

/-- A step keeps the canonical form of memory. -/
theorem wf_step {s t : State} (hwf : s.mem.wf = true) (h : step s = .next t) : t.mem.wf = true := by
  rcases step_cases_exec h with ⟨-, rfl⟩ | ⟨-, -, rfl⟩ | ⟨-, i, -, hexec⟩
  · exact hwf
  · exact hwf
  · exact wf_exec hwf hexec

/-- A step leaves no page crossing pending. -/
theorem pageCrossed_step {s t : State} (hs : s.pageCrossed = false) (h : step s = .next t) :
    t.pageCrossed = false := by
  rcases step_cases_exec h with ⟨-, rfl⟩ | ⟨-, -, rfl⟩ | ⟨-, i, -, hexec⟩
  · exact hs
  · exact hs
  · obtain ⟨-, -, -, hcrossed⟩ := exec_frame hexec
    exact hcrossed

/-- Settles O42: each half of the invariant is kept on its own. -/
theorem stepKeepsInvariant : Obligations.StepKeepsInvariant :=
  fun _ _ ⟨hwf, hcrossed⟩ h => ⟨wf_step hwf h, pageCrossed_step hcrossed h⟩

/-! ## The flags no instruction sets (R33) -/

/-- The flags of `neverSetMask` (R33). -/
def neverSetFlags : List Flag := [.carry, .decimal, .brk, .unused, .overflow]

/-- The only handlers that write one of these flags clear it. -/
theorem flagOf_statusAfter_of_neverSet {f : Operate} {g : Flag} (hg : g ∈ neverSetFlags) (hf : f ∈ flagWriters g)
    (v : Byte) (s : State) : flagOf g (statusAfter f v s) = false := by
  cases g with
  | carry | decimal | overflow =>
    obtain rfl := List.mem_singleton.mp hf
    exact flagOf_withFlag_same _ _ _
  | brk | unused => exact nomatch hf
  | zero | interruptDisable | negative => exact absurd hg (by decide)

/-- An instruction sets none of these flags. -/
theorem flagOf_exec_of_neverSet {i : Instr} {s t : State} {g : Flag} (hg : g ∈ neverSetFlags)
    (h : exec i s = .next t) (ht : flagOf g t.p = true) : flagOf g s.p = true := by
  by_cases hw : i.operate ∈ flagWriters g
  · rw [p_exec h, flagOf_statusAfter_of_neverSet hg hw] at ht
    exact nomatch ht
  · rw [← flagOf_p_exec_of_notMem h hw, ht]

/-- No step sets one of these flags. -/
theorem flagOf_step_of_neverSet {s t : State} {g : Flag} (hg : g ∈ neverSetFlags) (h : step s = .next t)
    (ht : flagOf g t.p = true) : flagOf g s.p = true := by
  rcases step_cases_exec h with ⟨-, rfl⟩ | ⟨-, -, rfl⟩ | ⟨-, i, -, hexec⟩
  · exact ht
  · exact ht
  · exact flagOf_exec_of_neverSet hg hexec ht

/-- The mask holds exactly the bits of these flags. -/
theorem getLsbD_neverSetMask {k : Nat} (hk : k < 8) :
    neverSetMask.getLsbD k = decide (∃ g ∈ neverSetFlags, g.bit = k) := by
  interval_cases k <;> decide

/-- P has no bit of the mask exactly when all five flags are clear. -/
theorem and_neverSetMask_eq_zero_iff (p : Byte) :
    p &&& neverSetMask = 0x00#8 ↔ ∀ g ∈ neverSetFlags, flagOf g p = false := by
  constructor
  · intro h g hg
    have hbit : g.bit < 8 := by cases g <;> decide
    have hmask : neverSetMask.getLsbD g.bit = true := by
      rw [getLsbD_neverSetMask hbit, decide_eq_true_iff]
      exact ⟨g, hg, rfl⟩
    have hand := congrArg (BitVec.getLsbD · g.bit) h
    rw [BitVec.getLsbD_and, hmask, Bool.and_true, BitVec.getLsbD_zero] at hand
    exact hand
  · intro h
    apply BitVec.eq_of_getLsbD_eq
    intro k hk
    rw [BitVec.getLsbD_and, getLsbD_neverSetMask hk, BitVec.getLsbD_zero]
    by_cases hg : ∃ g ∈ neverSetFlags, g.bit = k
    · obtain ⟨g, hg, rfl⟩ := hg
      rw [show p.getLsbD g.bit = false from h g hg, Bool.false_and]
    · rw [decide_eq_false hg, Bool.and_false]

/-- A step keeps the five flags clear. -/
theorem neverSetMask_step {s t : State} (hs : s.p &&& neverSetMask = 0x00#8) (h : step s = .next t) :
    t.p &&& neverSetMask = 0x00#8 := by
  rw [and_neverSetMask_eq_zero_iff] at hs ⊢
  intro g hg
  by_contra ht
  rw [Bool.not_eq_false] at ht
  exact absurd (hs g hg) (by simp [flagOf_step_of_neverSet hg h ht])

/-- Settles O43: flag by flag for a step, and the whole mask along a run. -/
theorem neverSetFlagsStayClear : Obligations.NeverSetFlagsStayClear :=
  ⟨fun _ _ _ h hg ht => flagOf_step_of_neverSet hg h ht,
    fun _ _ _ hs h => run_keeps (fun _ _ => neverSetMask_step) hs h⟩

/-! ## Host actions (R203-R206) -/

/-- A state with the invariant and the five flags clear. -/
def Sound (s : State) : Prop := s.Inv ∧ s.p &&& neverSetMask = 0x00#8

theorem sound_reset : Sound State.reset := ⟨⟨rfl, rfl⟩, rfl⟩

/-- Every host action keeps a sound state sound. -/
theorem sound_hostAct {s t : State} {act : HostAction} (hs : Sound s) (h : hostAct act s = .next t) : Sound t := by
  obtain ⟨⟨hwf, hcrossed⟩, hmask⟩ := hs
  cases act with
  | step => exact ⟨⟨wf_step hwf h, pageCrossed_step hcrossed h⟩, neverSetMask_step hmask h⟩
  | reset pc =>
    obtain rfl := Host.Outcome.next.inj h
    exact ⟨⟨hwf, rfl⟩, BitVec.zero_and⟩
  | writeMemory a v =>
    obtain rfl := Host.Outcome.next.inj h
    exact ⟨⟨Memory.wf_write hwf a v, hcrossed⟩, hmask⟩

/-- Every host action answers a next state. -/
theorem exists_hostAct_next (act : HostAction) (s : State) : ∃ t, hostAct act s = .next t := by
  cases act with
  | step => exact exists_step_next s
  | reset pc => exact ⟨_, rfl⟩
  | writeMemory a v => exact ⟨_, rfl⟩

/-- A sequence of host actions goes on from the state its first one answers. -/
theorem hostRun_cons {act : HostAction} {s t : State} (h : hostAct act s = .next t) (acts : List HostAction) :
    hostRun (act :: acts) s = hostRun acts t := by
  simp only [hostRun, h]

/-- Every sequence of host actions from a sound state runs to its end, in a sound state. -/
theorem sound_hostRun {s : State} (hs : Sound s) (acts : List HostAction) :
    ∃ t, hostRun acts s = .next t ∧ Sound t := by
  induction acts generalizing s with
  | nil => exact ⟨s, rfl, hs⟩
  | cons act acts ih =>
    obtain ⟨u, hu⟩ := exists_hostAct_next act s
    rw [hostRun_cons hu]
    exact ih (sound_hostAct hs hu)

/-- Settles O44: reset is sound, every host action keeps it, and by induction every sequence of them does. -/
theorem reachableStatesAreSound : Obligations.ReachableStatesAreSound := by
  refine ⟨sound_reset, fun s t act hinv hmask h => sound_hostAct ⟨hinv, hmask⟩ h, fun s hreach => ?_, fun acts => ?_⟩
  · obtain ⟨acts, hacts⟩ := hreach
    obtain ⟨t, ht, hsound⟩ := sound_hostRun sound_reset acts
    obtain rfl := Host.Outcome.next.inj (hacts.symm.trans ht)
    exact hsound
  · obtain ⟨t, ht, -⟩ := sound_hostRun sound_reset acts
    exact ⟨t, ht⟩

/-- Settles O59: each action is one state, and a memory write is read back where it was made. -/
theorem hostWritesOnlyThroughReset : Obligations.HostWritesOnlyThroughReset := by
  refine fun s t => ⟨fun a v h => ?_, fun pc h => ?_, rfl⟩
  · obtain rfl := Host.Outcome.next.inj h
    exact ⟨rfl, rfl, fun hwf => ⟨Memory.wf_write hwf a v, Memory.read_write_same hwf a v⟩,
      fun b hb => Memory.read_write_other hb s.mem v⟩
  · obtain rfl := Host.Outcome.next.inj h
    exact ⟨rfl, rfl, rfl⟩

/-! ## The writers of I and of the registers (R23, R28, R29) -/

/-- CLI alone runs the handler of CLI (R75). -/
theorem operate_eq_cli_iff (i : Instr) : i.operate = .cli ↔ i = .cli := by
  cases i <;> simp [Instr.operate]

/-- The instructions that write I are CLI and BRK (R29). -/
theorem operate_mem_flagWriters_interruptDisable_iff (i : Instr) :
    i.operate ∈ flagWriters .interruptDisable ↔ i = .cli ∨ i = .brk := by
  rw [← operate_eq_cli_iff, ← operate_eq_brk_iff]
  simp [flagWriters]

/-- A step that changes I ran CLI, which clears it, or BRK, which sets it. -/
theorem interruptDisable_step_cases {s t : State} (h : step s = .next t)
    (hne : flagOf .interruptDisable t.p ≠ flagOf .interruptDisable s.p) :
    (flagOf .interruptDisable t.p = false ∧ s.read s.pc = 0x58#8) ∨
      (flagOf .interruptDisable t.p = true ∧ s.read s.pc = 0x00#8) := by
  rcases step_cases_exec h with ⟨-, rfl⟩ | ⟨-, -, rfl⟩ | ⟨-, i, hf, hexec⟩
  · exact absurd rfl hne
  · exact absurd rfl hne
  · have hw : i.operate ∈ flagWriters .interruptDisable := by
      by_contra hw
      exact hne (flagOf_p_exec_of_notMem hexec hw)
    rw [← opcode_of_fetchInstr hf, p_exec hexec]
    rcases (operate_mem_flagWriters_interruptDisable_iff i).mp hw with rfl | rfl
    · exact .inl ⟨flagOf_withFlag_same _ _ _, rfl⟩
    · exact .inr ⟨flagOf_withFlag_same _ _ _, rfl⟩

/-- Settles O45: a change of I is one of the two cases, told apart by the value after it. -/
theorem interruptDisableSetOnlyByBrk : Obligations.InterruptDisableSetOnlyByBrk := by
  intro s t h
  refine ⟨fun hs ht => ?_, fun hs ht => ?_⟩
  · rcases interruptDisable_step_cases h (by simp [hs, ht]) with ⟨hf, -⟩ | ⟨-, hbyte⟩
    · exact absurd (ht.symm.trans hf) (by decide)
    · exact hbyte
  · rcases interruptDisable_step_cases h (by simp [hs, ht]) with ⟨-, hbyte⟩ | ⟨hf, -⟩
    · exact hbyte
    · exact absurd (ht.symm.trans hf) (by decide)

/-- Settles O46: the writers of each register are those of the handlers; fetch, resolution and accounting write none. -/
theorem registerFrame : Obligations.RegisterFrame := by
  intro i s t h
  obtain ⟨-, hhalted, hhaltOpcode, -⟩ := exec_frame h
  have heq := exec_next h
  rw [account_eq, handlerState_eq] at heq
  refine ⟨fun ha => ?_, fun hx => ?_, fun hy => ?_, fun hsp => ?_, hhalted, hhaltOpcode⟩ <;> rw [heq]
  · exact a_handlerOf ha _ _ _
  · exact x_handlerOf hx _ _ _
  · exact y_handlerOf hy _ _ _
  · exact sp_handlerOf hsp _ _ _

end Sys2Proof.Proofs
end

section
/-! PROOFS. The memory port (20_memory.md sections 5 and 6): the accesses of a step in the words of R60, the memory
they leave, and what later steps read of it. -/

namespace Sys2Proof.Proofs

open Sys2Proof.Machine Sys2Proof.Claims

/-! ## The accesses of an instruction other than BRK (R60) -/

/-- The operand bytes are read at PC + 1 and up. -/
theorem operandReads_eq (o : Operand) (pc : Addr) :
    operandReads (pc + 1) o.mode.operandBytes = (operandAddrs o pc).map .read := by
  cases o <;> simp [Operand.mode, AddrMode.operandBytes, operandReads, operandAddrs, BitVec.add_assoc]

/-- A zero-page address, of the number its byte is. -/
theorem zext16_eq_ofNat {b : Byte} {n : Nat} (h : b.toNat = n) : zext16 b = BitVec.ofNat 16 n := by
  subst h
  exact (BitVec.ofNat_toNat 16 b).symm

/-- The pointer bytes are read low, then high, within the zero page (R104, R105). -/
theorem pointerReads_eq (o : Operand) (s : State) : pointerReads o s = (pointerAddrs o s).map .read := by
  cases o with
  | indirectX zp =>
    have hhigh : (zp + s.x + 1).toNat = (zp.toNat + s.x.toNat + 1) % 256 := by
      rw [BitVec.toNat_add, BitVec.toNat_add]
      exact Nat.mod_add_mod _ _ _
    rw [pointerReads, pointerPair, zext16_eq_ofNat (BitVec.toNat_add zp s.x), zext16_eq_ofNat hhigh]
    rfl
  | indirectY zp =>
    rw [pointerReads, pointerPair, zext16_eq_ofNat rfl, zext16_eq_ofNat (BitVec.toNat_add zp 1)]
    rfl
  | _ => rfl

/-- The mnemonics whose kind requires a value (R75, R106). -/
theorem needsValue_accessKind_iff (f : Operate) :
    needsValue f.accessKind = true ↔ f ∈ [Operate.lda, .ldx, .ldy, .and, .ora, .inc, .dec] := by
  cases f <;> decide

/-- The modes with an effective address (R77). -/
theorem hasAddress_iff (m : AddrMode) : m.hasAddress = true ↔ m ∉ [AddrMode.implied, .immediate] := by
  cases m <;> decide

/-- The value is read at the effective address, for the mnemonics and modes that have one to read (R106). -/
theorem valueReads_eq (i : Instr) (s : State) :
    valueReads i.operate.accessKind i.operand s = (valueAddrs i s).map .read := by
  simp only [valueReads, valueAddrs, Bool.and_eq_true, needsValue_accessKind_iff, hasAddress_iff]
  split <;> rfl

/-- All the reads of an instruction before its handler runs, in order (R60 items 1 to 4). -/
theorem instrReads_eq (i : Instr) (s : State) :
    instrReads i s =
      (s.pc :: (operandAddrs i.operand s.pc ++ pointerAddrs i.operand s ++ valueAddrs i s)).map .read := by
  rw [instrReads, operandReads_eq, pointerReads_eq, valueReads_eq, List.map_cons, List.map_append, List.map_append]

/-- A handler other than BRK's makes one access, the write of the stored byte, or none (R60 item 5). -/
theorem handlerAccesses_of_ne_brk {i : Instr} (hi : i ≠ .brk) (s : State) :
    handlerAccesses i.operate
        (addrArg i.operate.accessKind (resolve i.operate.accessKind i.operand (fetchOpcode s)))
        (valArg i.operate.accessKind (resolve i.operate.accessKind i.operand (fetchOpcode s)))
        (handlerState i.operand s) =
      (storedByte i s).toList.map (.write (effectiveAddress i.operand s)) := by
  have hwrite := @addrArg_resolve_of_write i
  have haddr := @addrArg_resolve_of_readModifyWrite i
  have hval := @valArg_resolve_of_readModifyWrite i
  rw [storedByte]
  cases hf : i.operate <;> rw [hf] at hwrite haddr hval
  case sta | stx | sty =>
    rw [hwrite rfl]
    rfl
  case inc | dec =>
    rw [haddr rfl, hval rfl]
    rfl
  case brk => exact absurd ((operate_eq_brk_iff i).mp hf) hi
  all_goals rfl

/-- The accesses of an instruction other than BRK: its reads, then the write of the stored byte (R60). -/
theorem instrAccesses_of_ne_brk {i : Instr} (hi : i ≠ .brk) (s : State) :
    instrAccesses i s = instrReads i s ++ (storedByte i s).toList.map (.write (effectiveAddress i.operand s)) := by
  rw [instrAccesses_eq, handlerAccesses_of_ne_brk hi]

/-- Settles O51: by what the step runs, the access lists of `busTrace_halted`, `busTrace_unknown`, `instrReads_eq` with
the stored byte, and `instrAccesses_brk`. -/
theorem accessOrder : Obligations.AccessOrder := by
  refine fun s => ⟨busTrace_halted, busTrace_unknown, fun i hrun hf hi => ?_, fun hrun hf => ?_⟩
  · rw [busTrace_run hrun hf, instrAccesses_of_ne_brk hi, instrReads_eq]
  · rw [busTrace_run hrun hf, instrAccesses_brk]
    rfl

/-! ## The memory an instruction leaves (R51, R52, R61) -/

/-- An instruction leaves the memory its accesses make. -/
theorem mem_exec {i : Instr} {s t : State} (h : exec i s = .next t) : t.mem = replay s.mem (instrAccesses i s) := by
  rw [exec_next h, instrAccesses_eq, replay_append, replay_reads (isWrite_instrReads i s)]
  exact (mem_handlerOf _ _ _ _).trans (replay_handlerAccesses _ _ _ (handlerState i.operand s)).symm

/-- Settles O50: only an instruction writes, and its memory is `mem_exec`. -/
theorem busTraceIsTheMemoryEffect : Obligations.BusTraceIsTheMemoryEffect := by
  intro s t h
  rcases step_cases_exec h with ⟨hh, rfl⟩ | ⟨hrun, hf, rfl⟩ | ⟨hrun, i, hf, hexec⟩
  · rw [busTrace_halted hh]
    rfl
  · rw [busTrace_unknown hrun hf]
    rfl
  · rw [busTrace_run hrun hf, mem_exec hexec]

/-- BRK stores no byte at an effective address. -/
theorem ne_brk_of_storedByte {i : Instr} {s : State} {v : Byte} (hv : storedByte i s = some v) : i ≠ .brk := by
  rintro rfl
  exact nomatch hv

/-- An instruction other than BRK writes its stored byte at the effective address, if it has one. -/
theorem mem_exec_of_ne_brk {i : Instr} {s t : State} (hi : i ≠ .brk) (h : exec i s = .next t) :
    t.mem = replay s.mem ((storedByte i s).toList.map (.write (effectiveAddress i.operand s))) := by
  rw [mem_exec h, instrAccesses_of_ne_brk hi, replay_append, replay_reads (isWrite_instrReads i s)]

/-- A form that stores leaves memory with one write. -/
theorem mem_exec_of_storedByte {i : Instr} {s t : State} {v : Byte} (hv : storedByte i s = some v)
    (h : exec i s = .next t) : t.mem = s.mem.write (effectiveAddress i.operand s) v := by
  rw [mem_exec_of_ne_brk (ne_brk_of_storedByte hv) h, hv]
  rfl

/-- A form that stores nothing leaves memory alone. -/
theorem mem_exec_of_storedByte_none {i : Instr} {s t : State} (hi : i ≠ .brk) (hv : storedByte i s = none)
    (h : exec i s = .next t) : t.mem = s.mem := by
  rw [mem_exec_of_ne_brk hi h, hv]
  rfl

/-- BRK leaves the frame of PC + 2 and P on the stack page (R170, R186). -/
theorem mem_exec_brk {s t : State} (h : exec .brk s = .next t) : t.mem = frameMemory { s with pc := s.pc + 2 } := by
  rw [exec_brk, interruptEntry_eq] at h
  obtain rfl := Host.Outcome.next.inj h
  rfl

/-- Settles O48: by the stored byte, and for BRK by its frame. -/
theorem memoryFrame : Obligations.MemoryFrame := by
  refine fun i s t h => ⟨fun v hv hwf => ?_, fun v a hv ha => ?_, fun hi a h0 h1 h2 => ?_, fun hv hi a => ?_⟩
  · rw [State.read, mem_exec_of_storedByte hv h, Memory.read_write_same hwf]
  · rw [State.read, mem_exec_of_storedByte hv h, Memory.read_write_other ha, State.read]
  · subst hi
    rw [State.read, mem_exec_brk h]
    exact read_frameMemory_other h0 h1 (by rwa [sub_one_sub_one])
  · rw [State.read, mem_exec_of_storedByte_none hi hv h, State.read]

/-! ## A store read back (R126) -/

/-- In a mode with an address the operand byte is the byte there (R106). -/
theorem operandByte_of_hasAddress {o : Operand} (h : o.mode.hasAddress = true) (s : State) :
    operandByte o s = s.read (effectiveAddress o s) := by
  cases o with
  | immediate => exact nomatch h
  | _ => rfl

/-- LDA has an effective address in every mode but Immediate (R75). -/
theorem hasAddress_of_lda {i : Instr} (h : i.operate = .lda) (hmode : i.operand.mode ≠ .immediate) :
    i.operand.mode.hasAddress = true := by
  have himplied : i.operand.mode ≠ .implied := by
    rw [ne_eq, mode_implied_iff, h]
    decide
  simp [hasAddress_iff, hmode, himplied]

/-- Settles O49: LDA's operand byte is the byte STA wrote, and neither instruction does more (O4, O1). -/
theorem storeThenLoadRoundTrip : Obligations.StoreThenLoadRoundTrip := by
  intro i j s t u hwf hi hj hmode hexec haddr hexec'
  have hstored : storedByte i s = some s.a := by rw [storedByte, hi]
  have hmem := mem_exec_of_storedByte hstored hexec
  rw [storeAccumulatorResult.1 i s hi] at hexec
  rw [loadAccumulatorResult j t hj] at hexec'
  have hbyte : operandByte j.operand t = s.a := by
    rw [operandByte_of_hasAddress (hasAddress_of_lda hj hmode), haddr, State.read, hmem, Memory.read_write_same hwf]
  have hp : t.p = s.p := by
    obtain rfl := Host.Outcome.next.inj hexec
    rfl
  obtain rfl := Host.Outcome.next.inj hexec'
  exact ⟨hbyte, by rw [completed, hbyte, hp], rfl⟩

/-! ## A store seen by a later fetch (R64) -/

/-- SP lowered by a byte that is not 0 names another address of the stack page (R27). -/
theorem stackAddr_ne_stackAddr_sub {k : Byte} (hk : k ≠ 0) (sp : Byte) : stackAddr sp ≠ stackAddr (sp - k) :=
  fun h => hk (sub_eq_self.mp (stackAddr_inj h).symm)

/-- The three bytes of an interrupt entry's frame lie apart, so each reads as it was pushed (R186). -/
theorem read_frameMemory {s : State} (hwf : s.mem.wf = true) :
    (frameMemory s).read (stackAddr s.sp) = highByte s.pc ∧
    (frameMemory s).read (stackAddr (s.sp - 1)) = lowByte s.pc ∧
    (frameMemory s).read (stackAddr (s.sp - 2)) = pushedStatus s.p := by
  have h01 := stackAddr_ne_stackAddr_sub (k := 1) (by decide) s.sp
  have h12 := stackAddr_ne_stackAddr_sub (k := 1) (by decide) (s.sp - 1)
  have h02 := stackAddr_ne_stackAddr_sub (k := 2) (by decide) s.sp
  have hwf1 := Memory.wf_write hwf (stackAddr s.sp) (highByte s.pc)
  have hwf2 := Memory.wf_write hwf1 (stackAddr (s.sp - 1)) (lowByte s.pc)
  rw [sub_one_sub_one] at h12
  rw [frameMemory, sub_one_sub_one]
  refine ⟨?_, ?_, Memory.read_write_same hwf2 _ _⟩
  · rw [Memory.read_write_other h02, Memory.read_write_other h01, Memory.read_write_same hwf]
  · rw [Memory.read_write_other h12, Memory.read_write_same hwf1]

/-- Every byte an instruction writes is the byte its address reads afterwards. -/
theorem read_of_write_mem_instrAccesses {i : Instr} {s t : State} {a : Addr} {v : Byte} (hwf : s.mem.wf = true)
    (h : exec i s = .next t) (hw : Access.write a v ∈ instrAccesses i s) : t.mem.read a = v := by
  by_cases hi : i = .brk
  · subst hi
    obtain ⟨h0, h1, h2⟩ := read_frameMemory (s := { s with pc := s.pc + 2 }) hwf
    rw [instrAccesses_brk] at hw
    simp only [entryAccesses, List.mem_cons, List.not_mem_nil, reduceCtorEq, Access.write.injEq, false_or,
      or_false] at hw
    rw [mem_exec_brk h]
    rcases hw with ⟨rfl, rfl⟩ | ⟨rfl, rfl⟩ | ⟨rfl, rfl⟩
    · exact h0
    · exact h1
    · exact h2
  · rw [instrAccesses_of_ne_brk hi, List.mem_append, List.mem_map] at hw
    rcases hw with hw | ⟨w, hstored, hwrite⟩
    · exact nomatch isWrite_instrReads i s _ hw
    · obtain ⟨rfl, rfl⟩ := Access.write.inj hwrite
      rw [mem_exec_of_storedByte (Option.mem_toList.mp hstored) h, Memory.read_write_same hwf]

/-- Every byte a step writes is the byte its address reads afterwards (R64). -/
theorem read_of_write_mem_busTrace {s t : State} {a : Addr} {v : Byte} (hwf : s.mem.wf = true)
    (h : step s = .next t) (hw : Access.write a v ∈ busTrace s) : t.mem.read a = v := by
  rcases step_cases_exec h with ⟨hh, -⟩ | ⟨hrun, hf, -⟩ | ⟨hrun, i, hf, hexec⟩
  · rw [busTrace_halted hh] at hw
    exact nomatch hw
  · simp [busTrace_unknown hrun hf] at hw
  · rw [busTrace_run hrun hf] at hw
    exact read_of_write_mem_instrAccesses hwf hexec hw

/-- The operand bytes of a decoded operand are the bytes after the opcode, as far as its mode has them (R71). -/
theorem getElem?_bytes_ofBytes (m : AddrMode) (b1 b2 : Byte) :
    (1 ≤ m.operandBytes → (Operand.ofBytes m b1 b2).bytes[0]? = some b1) ∧
    (m.operandBytes = 2 → (Operand.ofBytes m b1 b2).bytes[1]? = some b2) := by
  cases m <;> simp [AddrMode.operandBytes, Operand.ofBytes, Operand.bytes]

/-- The operand bytes of a fetched instruction are the bytes after PC. -/
theorem bytes_of_fetchInstr {s : State} {i : Instr} (hf : fetchInstr s = some i) :
    (1 ≤ i.operand.mode.operandBytes → i.operand.bytes[0]? = some (s.read (s.pc + 1))) ∧
    (i.operand.mode.operandBytes = 2 → i.operand.bytes[1]? = some (s.read (s.pc + 2))) := by
  rw [(instrAt_eq_some hf).2, mode_ofBytes]
  exact getElem?_bytes_ofBytes _ _ _

/-- A running core whose byte at PC has a row runs an instruction with that opcode and does not halt. -/
theorem step_of_mem_opcodeRows {s : State} (hrun : s.halted = false) (hop : s.read s.pc ∈ opcodeRows.map (·.1)) :
    ∃ i t, i.opcode = s.read s.pc ∧ step s = exec i s ∧ step s = .next t ∧ t.halted = false := by
  obtain ⟨i, hf⟩ := Option.ne_none_iff_exists'.mp fun hf => (fetchInstr_eq_none_iff s).mp hf hop
  obtain ⟨-, hhalted, -⟩ := exec_frame (exec_eq i s)
  exact ⟨i, _, opcode_of_fetchInstr hf, step_run hrun hf, (step_run hrun hf).trans (exec_eq i s), hhalted.trans hrun⟩

/-- Settles O52: the later state reads the written byte at its address; opcode, operand bytes and value are reads. -/
theorem fetchSeesEarlierStore : Obligations.FetchSeesEarlierStore := by
  intro s t u a v hwf h hw hmem hrun
  have hread : u.read a = v := by rw [State.read, hmem, read_of_write_mem_busTrace hwf h hw]
  refine ⟨hread, fun hpc hv => ?_, fun hpc hv => ?_, fun j hf => ?_⟩
  · subst hpc hread
    exact step_unknown hrun ((fetchInstr_eq_none_iff u).mpr hv)
  · subst hpc hread
    exact step_of_mem_opcodeRows hrun hv
  · obtain ⟨hfirst, hsecond⟩ := bytes_of_fetchInstr hf
    refine ⟨fun hpc hbytes => ?_, fun hpc hbytes => ?_, fun hmode haddr => ?_⟩
    · rw [hfirst hbytes, hpc, hread]
    · rw [hsecond hbytes, hpc, hread]
    · rw [operandByte_of_hasAddress hmode, haddr, hread]

/-! ## An instruction word placed at PC (R203) -/

/-- Three bytes laid down in a row, the wrap at 0xFFFF included, read back at their addresses. -/
theorem read_writeBytes_three {m : Memory} (hm : m.wf = true) (a : Addr) (b0 b1 b2 : Byte) :
    (m.writeBytes a [b0, b1, b2]).read a = b0 ∧ (m.writeBytes a [b0, b1, b2]).read (a + 1) = b1 ∧
      (m.writeBytes a [b0, b1, b2]).read (a + 2) = b2 := by
  have h12 : a + 1 + 1 = a + 2 := BitVec.add_assoc a 1 1
  have hne : ∀ k : Addr, k ≠ 0 → a ≠ a + k := fun k hk h => hk (left_eq_add.mp h)
  have hne12 : a + 1 ≠ a + 2 := h12 ▸ fun h => absurd (left_eq_add.mp h) (by decide)
  have hwf1 := Memory.wf_write hm a b0
  have hwf2 := Memory.wf_write hwf1 (a + 1) b1
  simp only [Memory.writeBytes, h12]
  refine ⟨?_, ?_, Memory.read_write_same hwf2 _ _⟩
  · rw [Memory.read_write_other (hne 2 (by decide)), Memory.read_write_other (hne 1 (by decide)),
      Memory.read_write_same hm]
  · rw [Memory.read_write_other hne12, Memory.read_write_same hwf1]

/-- A word the decoder accepts is one its three bytes decode to. -/
theorem decode_of_decodeTableWord {nbits w : Nat} {i : Instr} (h : decodeTableWord nbits w = some i) :
    ∃ rest, decode (tableBytes nbits w) = .instr i rest := by
  rw [decodeTableWord] at h
  cases hd : decode (tableBytes nbits w) with
  | instr j rest =>
    rw [hd] at h
    obtain rfl := Option.some.inj h
    exact ⟨rest, rfl⟩
  | unknownOpcode op => rw [hd] at h; exact nomatch h
  | truncated => rw [hd] at h; exact nomatch h

/-- A table word is laid down as three bytes, whatever its width. -/
theorem exists_tableBytes_eq (nbits w : Nat) : ∃ b0 b1 b2, tableBytes nbits w = [b0, b1, b2] := ⟨_, _, _, rfl⟩

/-- The placed word's three bytes are what the next fetch reads. -/
theorem tableBytes_eq_reads {s : State} (hwf : s.mem.wf = true) (nbits w : Nat) :
    tableBytes nbits w =
      [(s.withFetchWord nbits w).read s.pc, (s.withFetchWord nbits w).read (s.pc + 1),
        (s.withFetchWord nbits w).read (s.pc + 2)] := by
  have hread : ∀ a, (s.withFetchWord nbits w).read a = (s.mem.writeBytes s.pc (tableBytes nbits w)).read a :=
    fun _ => rfl
  obtain ⟨b0, b1, b2, hbytes⟩ := exists_tableBytes_eq nbits w
  obtain ⟨h0, h1, h2⟩ := read_writeBytes_three hwf s.pc b0 b1 b2
  rw [hread, hread, hread, hbytes, h0, h1, h2]

/-- Settles O34: the running core fetches the word's bytes, and placing it writes memory and ends a halt. -/
theorem placedWordRunsNext : Obligations.PlacedWordRunsNext := by
  intro s nbits w i hwf h
  obtain ⟨rest, hdecode⟩ := decode_of_decodeTableWord h
  rw [tableBytes_eq_reads hwf] at hdecode
  exact ⟨stepRunsDecodedInstruction _ i rest rfl hdecode, _, rfl, wf_withFetchWord hwf nbits w⟩

end Sys2Proof.Proofs
end

section
/-! PROOFS. What steers no execution (10_state.md): P for every instruction but BRK, and the cycle counter and the halt
byte for every step. -/

namespace Sys2Proof.Proofs

open Sys2Proof.Machine Sys2Proof.Claims

/-! ## The resolver reads X, Y, PC and memory only (R95-R106) -/

theorem crossesPage_congr {s t : State} (o : Operand) (hx : t.x = s.x) (hy : t.y = s.y) (hm : t.mem = s.mem) :
    crossesPage o t = crossesPage o s := by
  cases o <;> simp [crossesPage, indexedBase?, effectiveAddress, hx, hy, hm]

theorem resolve_congr {s t : State} (kind : AccessKind) (o : Operand) (hx : t.x = s.x) (hy : t.y = s.y)
    (hm : t.mem = s.mem) (hp : t.pc = s.pc) : resolve kind o t = resolve kind o s := by
  rw [resolve, resolve, effectiveAddress_congr o hx hy hm hp]
  cases o <;> simp only [operandValue, State.read, effectiveAddress_congr _ hx hy hm hp, hm]

/-! ## P (R29, R34) -/

theorem resolve_fetchOpcode_setP (kind : AccessKind) (o : Operand) (q : Byte) (s : State) :
    resolve kind o (fetchOpcode { s with p := q }) = resolve kind o (fetchOpcode s) :=
  resolve_congr kind o rfl rfl rfl rfl

theorem crossesPage_setP (o : Operand) (q : Byte) (s : State) : crossesPage o { s with p := q } = crossesPage o s :=
  crossesPage_congr o rfl rfl rfl

/-- A handler other than BRK's reads P only to write P. -/
theorem handlerOf_setP {f : Operate} (hf : f ≠ .brk) (a : Addr) (v q : Byte) (s : State) :
    handlerOf f a v { s with p := q } = { handlerOf f a v s with p := statusAfter f v { s with p := q } } := by
  cases f with
  | brk => exact absurd rfl hf
  | _ => rfl

/-- An instruction other than BRK, from a state with another P, differs in P alone. -/
theorem exec_setP {i : Instr} (hi : i ≠ .brk) {s t : State} (h : exec i s = .next t) (q : Byte) :
    ∃ q', exec i { s with p := q } = .next { t with p := q' } := by
  have hop := mt (operate_eq_brk_iff i).mp hi
  rw [exec_eq_completed hop] at h
  obtain rfl := Host.Outcome.next.inj h
  have hq := exec_eq_completed hop { s with p := q }
  rw [resolve_fetchOpcode_setP, handlerOf_setP hop, completed, crossesPage_setP] at hq
  exact ⟨_, hq⟩

/-- Settles O53: `exec_setP`, and BRK's three pushes, the last of which is of P (O15). -/
theorem statusNeverSteersExecution : Obligations.StatusNeverSteersExecution := by
  refine ⟨fun i s t q hi h => exec_setP hi h q, fun s t q h => ?_⟩
  rw [softwareInterruptResult.1] at h
  obtain rfl := Host.Outcome.next.inj h
  refine ⟨_, _, softwareInterruptResult.1 _, fun a ha => ?_⟩
  exact (Memory.read_write_other ha _ _).trans (Memory.read_write_other ha _ _).symm

/-! ## The counters (R35, R37) -/

/-- A state with `n` more cycles and another halt byte. -/
def withCounters (n : Nat) (op : Byte) (s : State) : State :=
  { s with cycles := s.cycles + n, haltOpcode := op }

/-- No handler reads the counters, and none writes them. -/
theorem handlerOf_withCounters (f : Operate) (a : Addr) (v : Byte) (n : Nat) (op : Byte) (s : State) :
    handlerOf f a v (withCounters n op s) = withCounters n op (handlerOf f a v s) := by
  cases f with
  | brk =>
    rw [handlerOf_brk_eq, handlerOf_brk_eq]
    rfl
  | _ => rfl

theorem handlerState_withCounters (o : Operand) (n : Nat) (op : Byte) (s : State) :
    handlerState o (withCounters n op s) = withCounters n op (handlerState o s) := by
  rw [handlerState_eq, handlerState_eq, crossesPage_congr (s := s) o rfl rfl rfl]
  rfl

/-- Accounting adds to the counter whatever it held. -/
theorem account_withCounters (base n : Nat) (op : Byte) (s : State) :
    account base (withCounters n op s) = withCounters n op (account base s) := by
  have hcycles : s.cycles + n + base + penalty s.pageCrossed = s.cycles + base + penalty s.pageCrossed + n := by omega
  rw [account_eq, account_eq, withCounters, withCounters, hcycles]

theorem resolve_fetchOpcode_withCounters (kind : AccessKind) (o : Operand) (n : Nat) (op : Byte) (s : State) :
    resolve kind o (fetchOpcode (withCounters n op s)) = resolve kind o (fetchOpcode s) :=
  resolve_congr kind o rfl rfl rfl rfl

/-- An instruction from a state with other counters differs in them alone. -/
theorem exec_withCounters {i : Instr} {s t : State} (h : exec i s = .next t) (n : Nat) (op : Byte) :
    exec i (withCounters n op s) = .next (withCounters n op t) := by
  rw [exec_next h, exec_eq, resolve_fetchOpcode_withCounters, handlerState_withCounters, handlerOf_withCounters,
    account_withCounters]

/-- The fetch does not read the counters. -/
theorem fetchInstr_withCounters (n : Nat) (op : Byte) (s : State) :
    fetchInstr (withCounters n op s) = fetchInstr s := rfl

theorem handlerAccesses_withCounters (f : Operate) (a : Addr) (v : Byte) (n : Nat) (op : Byte) (s : State) :
    handlerAccesses f a v (withCounters n op s) = handlerAccesses f a v s := by
  cases f <;> rfl

theorem instrReads_withCounters (i : Instr) (n : Nat) (op : Byte) (s : State) :
    instrReads i (withCounters n op s) = instrReads i s := by
  have hpointer : pointerReads i.operand (withCounters n op s) = pointerReads i.operand s := by
    cases i.operand <;> rfl
  have hea : effectiveAddress i.operand (withCounters n op s) = effectiveAddress i.operand s :=
    effectiveAddress_congr i.operand rfl rfl rfl rfl
  rw [instrReads, instrReads, hpointer, valueReads, valueReads, hea]
  rfl

/-- The accesses of a step do not depend on the counters. -/
theorem busTrace_withCounters (n : Nat) (op : Byte) (s : State) : busTrace (withCounters n op s) = busTrace s := by
  have hinstr : ∀ i, instrAccesses i (withCounters n op s) = instrAccesses i s := fun i => by
    rw [instrAccesses_eq, instrAccesses_eq, instrReads_withCounters, resolve_fetchOpcode_withCounters,
      handlerState_withCounters, handlerAccesses_withCounters]
  cases hh : s.halted with
  | true => rw [busTrace_halted hh, busTrace_halted (s := withCounters n op s) hh]
  | false =>
    cases hf : fetchInstr s with
    | none => rw [busTrace_unknown hh hf, busTrace_unknown (s := withCounters n op s) hh hf]; rfl
    | some i => rw [busTrace_run hh hf, busTrace_run (s := withCounters n op s) hh hf, hinstr]

/-- Settles O54: `s'` is `withCounters n op s`; a step that halts records the byte at PC over the other halt byte, and
every other step keeps it. -/
theorem countersNeverSteerExecution : Obligations.CountersNeverSteerExecution := by
  rintro s n op s' rfl
  refine ⟨fetchInstr_withCounters n op s, busTrace_withCounters n op s, fun t h => ?_,
    fun i t h => exec_withCounters h n op⟩
  rcases step_cases_exec h with ⟨hh, rfl⟩ | ⟨hrun, hf, rfl⟩ | ⟨hrun, i, hf, hexec⟩
  · exact ⟨fun hrun => absurd hh (by simp [hrun]), fun _ => step_halted hh⟩
  · exact ⟨fun _ _ => step_unknown (s := withCounters n op s) hrun hf, fun hor => absurd hor (by simp [hrun])⟩
  · obtain ⟨-, hhalted, -⟩ := exec_frame hexec
    refine ⟨fun _ ht => absurd (hhalted.symm.trans ht) (by simp [hrun]), fun _ => ?_⟩
    exact (step_run (s := withCounters n op s) hrun hf).trans (exec_withCounters hexec n op)

end Sys2Proof.Proofs
end

section
/-! PROOFS. Pushes in a row and nested BRKs (60_exceptions.md sections 4 and 5): the stack page wraps. -/

namespace Sys2Proof.Proofs

open Sys2Proof.Machine Sys2Proof.Claims

/-! ## Pushes in a row (R58) -/

/-- Pushing bytes changes SP, lower by their number modulo 256, and memory. -/
theorem pushAll_eq (vs : List Byte) (s : State) :
    pushAll vs s = { s with sp := s.sp - BitVec.ofNat 8 vs.length, mem := (pushAll vs s).mem } := by
  induction vs generalizing s with
  | nil =>
    rw [List.length_nil, BitVec.sub_zero]
    rfl
  | cons v vs ih =>
    have hsp : s.sp - 1 - BitVec.ofNat 8 vs.length = s.sp - BitVec.ofNat 8 (vs.length + 1) := by
      rw [BitVec.sub_sub, Nat.add_comm, BitVec.ofNat_add]
      rfl
    rw [pushAll, ih (push v s), List.length_cons, ← hsp]
    rfl

/-- SP after pushing bytes. -/
theorem sp_pushAll (vs : List Byte) (s : State) : (pushAll vs s).sp = s.sp - BitVec.ofNat 8 vs.length := by
  rw [pushAll_eq]

/-- A push changes no byte outside the stack page (R27). -/
theorem read_push_outside {a : Addr} (ha : a.toNat < 0x0100 ∨ 0x01FF < a.toNat) (v : Byte) (s : State) :
    (push v s).read a = s.read a := by
  have hne : a ≠ stackAddr s.sp := by
    intro h
    have hsp := s.sp.isLt
    rw [h, stackAddr_toNat] at ha
    omega
  rw [State.read, mem_push, Memory.read_write_other hne, State.read]

/-- Pushing bytes changes none outside the stack page. -/
theorem read_pushAll_outside {a : Addr} (ha : a.toNat < 0x0100 ∨ 0x01FF < a.toNat) (vs : List Byte) (s : State) :
    (pushAll vs s).read a = s.read a := by
  induction vs generalizing s with
  | nil => rfl
  | cons v vs ih => rw [pushAll, ih, read_push_outside ha]

/-! ## Nested BRKs (R191) -/

/-- BRK leaves SP 3 lower, modulo 256. -/
theorem sp_exec_brk {s t : State} (h : exec .brk s = .next t) : t.sp = s.sp - 3 := by
  rw [softwareInterruptResult.1] at h
  obtain rfl := Host.Outcome.next.inj h
  rfl

/-- After `n` nested BRKs SP is `3 n` lower, modulo 256. -/
theorem sp_of_nestedBrk {n : Nat} {s u : State} (h : NestedBrk n s u) : u.sp = s.sp - BitVec.ofNat 8 (3 * n) := by
  induction n generalizing u with
  | zero => exact (show u.sp = s.sp from h).trans (BitVec.sub_zero _).symm
  | succ n ih =>
    obtain ⟨r, t, hr, hexec, hsp⟩ := h
    rw [hsp, sp_exec_brk hexec, ih hr, BitVec.sub_sub, Nat.mul_succ, BitVec.ofNat_add]
    rfl

/-- Settles O58: BRK is three pushes, each nesting lowers SP by 3, so the 86th pushes its second byte where the first
pushed its first. -/
theorem brkNestingWrapsStackPage : Obligations.BrkNestingWrapsStackPage := by
  refine ⟨fun s => ⟨_, exec_brk s, ?_, ?_⟩, fun n s u => sp_of_nestedBrk, fun s u hnested hwf => ?_, fun vs s => ?_⟩
  · rw [sp_exec_brk (exec_brk s), sp_pushAll]
    rfl
  · rw [mem_exec_brk (exec_brk s)]
    rfl
  · have hsp : s.sp = u.sp - 1 := by
      rw [sp_of_nestedBrk hnested, BitVec.sub_sub]
      exact (BitVec.sub_zero _).symm
    obtain ⟨-, hlow, -⟩ := read_frameMemory (s := { u with pc := u.pc + 2 }) hwf
    refine ⟨_, exec_brk u, ?_⟩
    rw [State.read, mem_exec_brk (exec_brk u), hsp]
    exact hlow
  · refine ⟨⟨_, pushAll_eq vs s⟩, fun a ha => read_pushAll_outside ha vs s, fun hlen v w => ?_⟩
    have hsp : (pushAll vs s).sp = s.sp := by
      rw [sp_pushAll, hlen]
      exact BitVec.sub_zero _
    exact ⟨_, _, rfl, mem_push v s, rfl, hsp ▸ mem_push w (pushAll vs s)⟩

end Sys2Proof.Proofs
end
